-- ==== Sys2Proof/Word.lean ====
section
/-! DEFINITION. The value types of the core: octets, 32-bit register words, and the fixed-length
byte arrays of spec rule R6 (a block or key is exactly 16 bytes, a nonce exactly 13). -/

namespace Sys2Proof

/-- An octet (spec R6). -/
abbrev Byte := BitVec 8

/-- A 32-bit register or bus word (spec R10). -/
abbrev Word := BitVec 32

/-- A byte string in frame order, byte 0 first (spec R6). -/
abbrev Bytes := List Byte

/-- Exactly 16 bytes: a cipher block, a key, a digest (spec R6). -/
abbrev Block := Vector Byte 16

/-- Exactly 13 bytes: a CCM* nonce (spec R6). -/
abbrev Nonce := Vector Byte 13

end Sys2Proof
end

