-- ==== Sys2Proof/Syntax.lean ====
section
/-! DEFINITION. The twelve commands of spec/opcode_table.json (spec R2, R56), one constructor a row.
All operands but DERIVE's selector come from registers (spec R54, R55). -/

namespace Sys2Proof

/-- A legal command. A command word that is none of these is BAD_CMD (spec R57, R58). -/
inductive Instr where
  /-- NOP, spec R130. -/
  | nop
  /-- ECB_ENC, spec R67. -/
  | ecbEnc
  /-- NONCE_BUILD, spec R80. -/
  | nonceBuild
  /-- HASH, spec R85. -/
  | hash
  /-- DERIVE with its 8-bit selector ARG, spec R88. -/
  | derive (sel : Byte)
  /-- CCM_DEC, spec R104. -/
  | ccmDec
  /-- CCM_ENC, spec R105. -/
  | ccmEnc
  /-- KR_LOAD, spec R107. -/
  | krLoad
  /-- KR_CLEAR, spec R108. -/
  | krClear
  /-- KR_READ, spec R109. -/
  | krRead
  /-- FC_REMEMBER, spec R111. -/
  | fcRemember
  /-- DECRYPT_FRAME, spec R128. -/
  | decryptFrame
  deriving DecidableEq, Repr

end Sys2Proof
end

