-- ==== Sys2Proof/WellFormed.lean ====
section
/-! DEFINITION. Which command words are legal, as spec R57 words it. `Instr` itself needs no check:
its one operand, DERIVE's selector, is 8 bits by type and every value of it is legal (spec R64). -/

namespace Sys2Proof

/-- RSV = bits 31:16 is zero (spec R54, R57). -/
def reservedZero (w : Word) : Bool := w.toNat / 0x10000 == 0

/-- OPC = bits 7:0 is below 0x0C (spec R57). -/
def opcodeKnown (w : Word) : Bool := w.toNat % 0x100 < 0x0C

/-- ARG = bits 15:8 is zero unless the opcode is DERIVE's 0x04 (spec R57). -/
def argAllowed (w : Word) : Bool := w.toNat / 0x100 % 0x100 == 0 || w.toNat % 0x100 == 0x04

/-- A legal command word: none of the three grounds of spec R57 holds. -/
def wellFormedWord (w : Word) : Bool := opcodeKnown w && reservedZero w && argAllowed w

end Sys2Proof
end

