-- ==== Sys2Proof/Decode.lean ====
section
/-! DEFINITION. Decoding a command word (spec R54 to R58), total on any word and on any bytes, and the
encoder, both written from the opcode map of spec R56. The window is little-endian (spec R43), so the
four bytes of a command word stand least significant first. -/

namespace Sys2Proof

/-- Why a word is no command (spec R57). -/
inductive DecodeError where
  /-- Fewer than four bytes are given. -/
  | truncated
  /-- RSV is not zero. -/
  | reservedNonzero
  /-- OPC is 0x0C or above. -/
  | unknownOpcode
  /-- ARG is not zero and OPC is not DERIVE's. -/
  | argNonzero
  deriving DecidableEq, Repr

/-- OPC, bits 7:0 (spec R54). -/
def cmdOpc (w : Word) : Byte := w.extractLsb' 0 8

/-- ARG, bits 15:8 (spec R54). -/
def cmdArg (w : Word) : Byte := w.extractLsb' 8 8

/-- RSV, bits 31:16 (spec R54). -/
def cmdRsv (w : Word) : BitVec 16 := w.extractLsb' 16 16

/-- A row of the opcode table: a word belongs to the row when `w &&& mask = pattern`. -/
structure OpcodeRow where
  mask : Word
  pattern : Word
  instr : Byte → Instr

/-- spec/opcode_table.json, row by row (spec R56). `instr` takes the word's ARG byte. -/
def opcodeTable : List OpcodeRow :=
  [ ⟨0xFFFFFFFF, 0x00000000, fun _ => .nop⟩,
    ⟨0xFFFFFFFF, 0x00000001, fun _ => .ecbEnc⟩,
    ⟨0xFFFFFFFF, 0x00000002, fun _ => .nonceBuild⟩,
    ⟨0xFFFFFFFF, 0x00000003, fun _ => .hash⟩,
    ⟨0xFFFF00FF, 0x00000004, fun arg => .derive arg⟩,
    ⟨0xFFFFFFFF, 0x00000005, fun _ => .ccmDec⟩,
    ⟨0xFFFFFFFF, 0x00000006, fun _ => .ccmEnc⟩,
    ⟨0xFFFFFFFF, 0x00000007, fun _ => .krLoad⟩,
    ⟨0xFFFFFFFF, 0x00000008, fun _ => .krClear⟩,
    ⟨0xFFFFFFFF, 0x00000009, fun _ => .krRead⟩,
    ⟨0xFFFFFFFF, 0x0000000A, fun _ => .fcRemember⟩,
    ⟨0xFFFFFFFF, 0x0000000B, fun _ => .decryptFrame⟩ ]

/-- Why a word that matches no row is illegal: the first ground of spec R57 that holds. -/
def decodeErrorOf (w : Word) : DecodeError :=
  if cmdRsv w ≠ 0 then .reservedNonzero
  else if 0x0C ≤ (cmdOpc w).toNat then .unknownOpcode
  else .argNonzero

/-- Decoding of a 32-bit command word (spec R58). An error is the spec's BAD_CMD. -/
def decodeWord (w : Word) : Except DecodeError Instr :=
  match opcodeTable.find? (fun row => w &&& row.mask == row.pattern) with
  | some row => .ok (row.instr (cmdArg w))
  | none => .error (decodeErrorOf w)

/-- The word whose little-endian bytes are the four given (spec R43). -/
def wordOfBytes (b0 b1 b2 b3 : Byte) : Word := b3 ++ b2 ++ b1 ++ b0

/-- Decoding of the bytes of a command, with the bytes that follow it. -/
def decode : Bytes → Except DecodeError (Instr × Bytes)
  | b0 :: b1 :: b2 :: b3 :: rest =>
    match decodeWord (wordOfBytes b0 b1 b2 b3) with
    | .ok i => .ok (i, rest)
    | .error e => .error e
  | _ => .error .truncated

/-- The command word with the given opcode and ARG, RSV zero (spec R54). -/
def commandWord (opc : Nat) (arg : Byte) : Word := (0 : BitVec 16) ++ arg ++ BitVec.ofNat 8 opc

/-- The command word of an instruction (spec R56). -/
def encodeWord : Instr → Word
  | .nop => commandWord 0x00 0
  | .ecbEnc => commandWord 0x01 0
  | .nonceBuild => commandWord 0x02 0
  | .hash => commandWord 0x03 0
  | .derive sel => commandWord 0x04 sel
  | .ccmDec => commandWord 0x05 0
  | .ccmEnc => commandWord 0x06 0
  | .krLoad => commandWord 0x07 0
  | .krClear => commandWord 0x08 0
  | .krRead => commandWord 0x09 0
  | .fcRemember => commandWord 0x0A 0
  | .decryptFrame => commandWord 0x0B 0

/-- The four bytes of a word, least significant first (spec R43). -/
def bytesOfWord (w : Word) : Bytes :=
  [w.extractLsb' 0 8, w.extractLsb' 8 8, w.extractLsb' 16 8, w.extractLsb' 24 8]

/-- The bytes of an instruction's command word. -/
def encode (i : Instr) : Bytes := bytesOfWord (encodeWord i)

/-- The table word `w` as the bytes the hardware holds it in: the low `nbits` bits of it, every bit
above them zero, `n` bytes in all, the least significant first. -/
def tableBytes (nbits w n : Nat) : Bytes :=
  (List.range n).map fun k => BitVec.ofNat 8 ((w % 2 ^ nbits) >>> (8 * k))

/-- The instruction the decoder reads from an opcode-table word, and nothing where it refuses or
where more bytes are given than a command has. -/
def decodeTableWord (nbits w : Nat) : Option Instr :=
  match decode (tableBytes nbits w (max 4 (nbits / 8))) with
  | .ok (i, []) => some i
  | _ => none

end Sys2Proof
end

