-- ==== Sys2Proof/Config.lean ====
section
/-! DEFINITION. What an implementation fixes (spec R5) and the free values (spec R40, R32).
An `opaque` constant has no body: no proof can learn its value. -/

namespace Sys2Proof.Config

/-- The sized parameters of spec R5, with the values this hardware takes as defaults (log 10). -/
structure Params where
  dbufSize : Nat := 256
  obufSize : Nat := 256
  krSlots : Nat := 32
  fcSlots : Nat := 16
  deriving DecidableEq, Repr

/-- The bounds spec R5 sets on the parameters. -/
def Params.legal (p : Params) : Bool :=
  p.dbufSize ≤ 4096 && p.obufSize ≤ 4096 && 1 ≤ p.krSlots && p.krSlots ≤ 256 && 1 ≤ p.fcSlots && p.fcSlots ≤ 256

/-- The parameters of this hardware: the stated values of spec R5. -/
def params : Params := {}

/-- DBUF_SIZE, bytes of the input buffer (spec R5). -/
def dbufSize : Nat := params.dbufSize

/-- OBUF_SIZE, bytes of the output buffer (spec R5). -/
def obufSize : Nat := params.obufSize

/-- KR_SLOTS, capacity of the key ring (spec R5). -/
def krSlots : Nat := params.krSlots

/-- FC_SLOTS, capacity of the flow cache (spec R5). -/
def fcSlots : Nat := params.fcSlots

/-- CORE_ID, the open value of the ID register (spec R15, decision D3; log 4). -/
opaque coreId : Word

/-- CORE_BASE, the open base address of the register window (spec R53, decision D4; log 4). -/
opaque coreBase : Nat

/-- The byte that DBUF offset `ofs` holds from reset number `epoch` until the host writes it: a draw
under no law (spec R40; log 3). -/
opaque dbufDraw (epoch ofs : Nat) : Byte

/-- The byte that OBUF offset `ofs` holds from reset number `epoch` until a command writes it (spec R40; log 3). -/
opaque obufDraw (epoch ofs : Nat) : Byte

/-- What the key field of an invalid key-ring slot holds: unspecified and, in every state a run
reaches, unobservable (spec R32, R115; log 9). -/
opaque staleKey (epoch slot : Nat) : Block

end Sys2Proof.Config
end

