-- ==== Sys2Proof/Machine/State.lean ====
section
/-! DEFINITION. The architectural state (spec R8 to R36), the model's own scheduling fields (log 1, 7, 8),
the reasons a step can stop, and the state after reset (spec R154). -/

namespace Sys2Proof.Machine

/-- Why the model stops. Nothing inside the core faults: every error of a command is a completion with
a result code (spec R143). -/
inductive Fault where
  /-- Raised by `step` when the host's next access names an offset at or above 0x3000, which is no
  offset of the core's window (spec R37). Safe: the hardware goes on, another device answering (log 5). -/
  | outsideWindow (ofs : Nat)
  deriving DecidableEq, Repr

/-- Why an instruction has no meaning. -/
inductive Refusal where
  /-- For an arm of `exec` without a meaning. Safe. No arm of this model answers with it. -/
  | notModelled (mnemonic : String)
  deriving DecidableEq, Repr

/-- The result codes of STATUS.RESULT (spec R138). Codes 12 to 15 are never written. -/
inductive ResultCode where
  | ok | authFail | exhausted | structErr | noSrc | passThru | unverified | bounds | badCmd | krFull
  | badSlot | badMicLen
  deriving DecidableEq, Repr

/-- The key roles of the 2-bit key-id field and of a key-ring entry's CLASS (spec R61). -/
inductive KeyId where
  | link | network | transport | load
  deriving DecidableEq, Repr

/-- The security levels, in the order of their numbers 0 to 7 (spec R60). -/
inductive SecurityLevel where
  | none | mic32 | mic64 | mic128 | enc | encMic32 | encMic64 | encMic128
  deriving DecidableEq, Repr

/-- Where a key came from (spec R30, R32): ORIGIN 0 pre-configured, 1 sniffed. -/
inductive Origin where
  | preconfigured | sniffed
  deriving DecidableEq, Repr

/-- CONFIG (spec R14). Its other bits are reserved and hold nothing. -/
structure ConfigReg where
  decodeLevel : BitVec 3
  ie : Bool
  deriving DecidableEq, Repr

/-- HDR_FLAGS (spec R19). -/
structure HdrFlags where
  srcValid : Bool
  ksnValid : Bool
  keySeq : Byte
  deriving DecidableEq, Repr

/-- KR_ARG (spec R30). -/
structure KrArg where
  cls : BitVec 2
  origin : Bool
  slot : Byte
  deriving DecidableEq, Repr

/-- RESULT_INFO (spec R29). -/
structure ResultInfo where
  slot : Byte
  slotValid : Bool
  fromCache : Bool
  tried : BitVec 16
  deriving DecidableEq, Repr

/-- RD_META (spec R31). -/
structure RdMeta where
  valid : Bool
  cls : BitVec 2
  origin : Bool
  deriving DecidableEq, Repr

/-- A valid entry of the key ring (spec R32). -/
structure KeyEntry where
  key : Block
  cls : KeyId
  origin : Origin
  prov : Word
  label : Word
  deriving DecidableEq, Repr

/-- A valid entry of the flow cache (spec R33). -/
structure FlowEntry where
  src : BitVec 64
  kid : KeyId
  slot : Byte
  deriving DecidableEq, Repr

/-- A buffer: the bytes written since reset, by offset (spec R37). An offset that is not listed has not
been written since reset (spec R40; log 3). -/
abbrev Memory := List Host.Cell

/-- The widths of a host access (spec R41). -/
inductive Width where
  | w8 | w16 | w32
  deriving DecidableEq, Repr

/-- One item of the schedule: an access of the host agent, an assertion of the reset input, or the
engine agent's turn (spec R157, R153; log 1). Offsets count from CORE_BASE. -/
inductive HostEvent where
  | read (width : Width) (ofs : Nat)
  | write (width : Width) (ofs : Nat) (value : Word)
  | reset
  | engine
  deriving DecidableEq, Repr

/-- The 32-bit registers of the register map (spec R10). -/
inductive Reg where
  | cmd | status | config | id | secCtrl | frameCnt | srcLo | srcHi | hdrFlags | frameOfs | aadLen
  | payloadLen | ctrlOfs | micLen | hashOfs | hashLen | outLen | krCount | krArg | krProv | krLabel
  | resultInfo | fcCount | rdMeta | rdProv | rdLabel
  deriving DecidableEq, Repr

/-- The byte arrays of the register map (spec R10). -/
inductive ArrayReg where
  | key | blkIn | blkOut | nonce | digest | rdKey
  deriving DecidableEq, Repr

/-- What stands at a byte offset of the window (spec R10, R11). -/
inductive Loc where
  /-- Byte lane `lane` of a 32-bit register, lane 0 its bits 7:0. -/
  | reg (r : Reg) (lane : Nat)
  /-- Byte `i` of an array. -/
  | array (a : ArrayReg) (i : Nat)
  /-- DBUF byte. -/
  | dbuf (ofs : Nat)
  /-- OBUF byte. -/
  | obuf (ofs : Nat)
  /-- A reserved offset. -/
  | reserved
  deriving DecidableEq, Repr

/-- The machine. STATUS.BUSY is the fullness of the pending-command latch (log 2), STATUS.IRQ is computed
(spec R13), KR_COUNT and FC_COUNT are the lengths of the two tables (log 9), and CMD and ID hold no state
(spec R12, R15). -/
structure State where
  /-- The pending-command latch (spec R34), full exactly while STATUS.BUSY = 1. -/
  pending : Option Word
  /-- STATUS.DONE (spec R13). -/
  done : Bool
  /-- STATUS.RESULT (spec R13, R138). -/
  result : ResultCode
  /-- STATUS.DETAIL (spec R13, R139). -/
  detail : BitVec 4
  /-- STATUS.WERR (spec R13, R142). -/
  werr : Bool
  /-- STATUS.FCFULL (spec R13, R142). -/
  fcfull : Bool
  /-- STATUS.AERR (spec R13, R142). -/
  aerr : Bool
  /-- CONFIG (spec R14). -/
  config : ConfigReg
  /-- SEC_CTRL (spec R16). -/
  secCtrl : Byte
  /-- FRAME_CNT (spec R17). -/
  frameCnt : Word
  /-- SRC_LO (spec R18). -/
  srcLo : Word
  /-- SRC_HI (spec R18). -/
  srcHi : Word
  /-- HDR_FLAGS (spec R19). -/
  hdrFlags : HdrFlags
  /-- FRAME_OFS (spec R20). -/
  frameOfs : Word
  /-- AAD_LEN (spec R20). -/
  aadLen : Word
  /-- PAYLOAD_LEN (spec R20). -/
  payloadLen : Word
  /-- CTRL_OFS (spec R21). -/
  ctrlOfs : Word
  /-- MIC_LEN (spec R22). -/
  micLen : Byte
  /-- HASH_OFS (spec R23). -/
  hashOfs : Word
  /-- HASH_LEN (spec R23). -/
  hashLen : Word
  /-- OUT_LEN (spec R24). -/
  outLen : Word
  /-- KR_ARG (spec R30). -/
  krArg : KrArg
  /-- KR_PROV (spec R30). -/
  krProv : Word
  /-- KR_LABEL (spec R30). -/
  krLabel : Word
  /-- RESULT_INFO (spec R29). -/
  resultInfo : ResultInfo
  /-- KEY (spec R25). -/
  key : Block
  /-- BLK_IN (spec R26). -/
  blkIn : Block
  /-- BLK_OUT (spec R26). -/
  blkOut : Block
  /-- NONCE (spec R27). -/
  nonce : Nonce
  /-- DIGEST (spec R28). -/
  digest : Block
  /-- RD_KEY (spec R31). -/
  rdKey : Block
  /-- RD_META (spec R31). -/
  rdMeta : RdMeta
  /-- RD_PROV (spec R31). -/
  rdProv : Word
  /-- RD_LABEL (spec R31). -/
  rdLabel : Word
  /-- DBUF (spec R37b). -/
  dbuf : Memory
  /-- OBUF (spec R37c). -/
  obuf : Memory
  /-- The valid entries of the key ring, slot 0 first (spec R32). -/
  ring : List KeyEntry
  /-- The valid entries of the flow cache, entry 0 first (spec R33). -/
  cache : List FlowEntry
  /-- The model's own: how many resets there have been; it selects the buffers' draws (log 8). -/
  epoch : Nat
  /-- The model's own: what the agents do next, in order (log 1). -/
  agenda : List HostEvent
  /-- The model's own: the bus value of the host's latest read (log 7). -/
  readData : Word
  deriving DecidableEq, Repr

/-- The machine right after reset (spec R154). -/
def State.reset : State where
  pending := none
  done := false
  result := .ok
  detail := 0
  werr := false
  fcfull := false
  aerr := false
  config := ⟨5, false⟩
  secCtrl := 0
  frameCnt := 0
  srcLo := 0
  srcHi := 0
  hdrFlags := ⟨false, false, 0⟩
  frameOfs := 0
  aadLen := 0
  payloadLen := 0
  ctrlOfs := 0xFFFFFFFF
  micLen := 0
  hashOfs := 0
  hashLen := 0
  outLen := 0
  krArg := ⟨0, false, 0⟩
  krProv := 0
  krLabel := 0
  resultInfo := ⟨0, false, false, 0⟩
  key := Vector.replicate 16 0
  blkIn := Vector.replicate 16 0
  blkOut := Vector.replicate 16 0
  nonce := Vector.replicate 13 0
  digest := Vector.replicate 16 0
  rdKey := Vector.replicate 16 0
  rdMeta := ⟨false, 0, false⟩
  rdProv := 0
  rdLabel := 0
  dbuf := []
  obuf := []
  ring := []
  cache := []
  epoch := 0
  agenda := []
  readData := 0

end Sys2Proof.Machine
end

