-- ==== Sys2Proof/Machine/Ops.lean ====
section
/-! DEFINITION. The named operations every command is written with: byte orders (spec R43, R47), byte
strings and blocks (spec section 4 of 00_scope), the two buffers (spec R37 to R40), and the one way a
command is accepted and the one way it ends (spec R135, R137). The core has no traps (spec R143):
`State.finish` is where every error goes. -/

namespace Sys2Proof.Machine

/-- The outcome of a command. -/
abbrev Result := Host.Outcome State Fault Refusal

/-! ### Byte orders and byte strings -/

/-- `le_n(v)`: byte 0 the least significant. -/
def le (n v : Nat) : Bytes := (List.range n).map fun i => BitVec.ofNat 8 (v >>> (8 * i))

/-- `be_n(v)`: byte 0 the most significant (log 12). -/
def be (n v : Nat) : Bytes := (le n v).reverse

/-- The number whose little-endian bytes are given (spec R43). -/
def fromLe : Bytes → Nat
  | [] => 0
  | b :: rest => b.toNat + 256 * fromLe rest

/-- Byte lane `k` of a register, lane 0 its bits 7:0 (spec R43). -/
def lane (w : Word) (k : Nat) : Byte := w.extractLsb' (8 * k) 8

/-- The byte `b` placed in lane `k` of an otherwise zero word. -/
def inLane (k : Nat) (b : Byte) : Word := b.setWidth 32 <<< (8 * k)

/-- A word with the byte of one lane replaced (spec R44). -/
def setLane (w : Word) (k : Nat) (b : Byte) : Word := (w &&& ~~~ inLane k 0xFF) ||| inLane k b

/-- A Boolean as one bit. -/
def bit (b : Bool) : BitVec 1 := BitVec.ofBool b

/-- `ceil16(n)`: the number of 16-byte blocks needed for `n` bytes. -/
def ceil16 (n : Nat) : Nat := (n + 15) / 16

/-- `pad16(s)`: zero-padded to the next multiple of 16. -/
def pad16 (s : Bytes) : Bytes := s ++ List.replicate (16 * ceil16 s.length - s.length) 0

/-- `xor` of two byte strings, of the length of the shorter. -/
def xorBytes (a b : Bytes) : Bytes := List.zipWith (· ^^^ ·) a b

/-- The block of the first 16 bytes of a string. -/
def blockOf (s : Bytes) : Block := Vector.ofFn fun i => s.getD i.val 0

/-- The nonce of the first 13 bytes of a string. -/
def nonceOfBytes (s : Bytes) : Nonce := Vector.ofFn fun i => s.getD i.val 0

/-- The block of 16 zero bytes. -/
def zeroBlock : Block := Vector.replicate 16 0

/-- Byte-wise exclusive-or of two blocks. -/
def xorBlock (a b : Block) : Block := Vector.ofFn fun i => a[i] ^^^ b[i]

/-- The first `n` 16-byte blocks of a string, in order. -/
def takeBlocks : Nat → Bytes → List Block
  | 0, _ => []
  | n + 1, s => blockOf (s.take 16) :: takeBlocks n (s.drop 16)

/-- `blocks16(s)`, for a string whose length is a multiple of 16. -/
def blocks16 (s : Bytes) : List Block := takeBlocks (s.length / 16) s

/-! ### Memory: a buffer's cells, offsets strictly rising -/

/-- What stands at an offset that no cell lists: nothing has been written there since reset. -/
def Memory.unlisted : Option Byte := none

/-- The byte last written at an offset. -/
def Memory.read : Memory → Nat → Option Byte
  | [], _ => Memory.unlisted
  | (a, b) :: rest, ofs => if a = ofs then some b else Memory.read rest ofs

/-- One byte written; the cells stay in rising order. -/
def Memory.write : Memory → Nat → Byte → Memory
  | [], ofs, v => [(ofs, v)]
  | (a, b) :: rest, ofs, v =>
    if ofs < a then (ofs, v) :: (a, b) :: rest
    else if ofs = a then (ofs, v) :: rest
    else (a, b) :: Memory.write rest ofs v

/-- A byte string written from an offset on. -/
def Memory.writeBytes : Memory → Nat → Bytes → Memory
  | m, _, [] => m
  | m, ofs, v :: vs => Memory.writeBytes (Memory.write m ofs v) (ofs + 1) vs

/-- The canonical form: offsets strictly rising and inside a buffer of `size` bytes. Every cell holds a
byte, so none equals what an unlisted offset holds. -/
abbrev Memory.wf (size : Nat) (m : Memory) : Prop :=
  m.Pairwise (fun x y => x.1 < y.1) ∧ ∀ c ∈ m, c.1 < size

/-! ### The buffers -/

/-- DBUF[ofs]: what the host wrote last, or the reset draw (spec R40; log 3). -/
def State.dbufByte (s : State) (ofs : Nat) : Byte :=
  (Memory.read s.dbuf ofs).getD (Config.dbufDraw s.epoch ofs)

/-- OBUF[ofs]: what a command wrote last, or the reset draw (spec R40; log 3). -/
def State.obufByte (s : State) (ofs : Nat) : Byte :=
  (Memory.read s.obuf ofs).getD (Config.obufDraw s.epoch ofs)

/-- DbufRead(ofs, n), spec R38. -/
def State.dbufRead (s : State) (ofs n : Nat) : Bytes :=
  (List.range n).map fun i => s.dbufByte (ofs + i)

/-- ObufWrite(ofs, v), spec R39. -/
def State.obufWrite (s : State) (ofs : Nat) (v : Bytes) : State :=
  { s with obuf := Memory.writeBytes s.obuf ofs v }

/-! ### Issue and completion -/

/-- STATUS.BUSY: the core holds an accepted command (spec R9, R34; log 2). -/
def State.busy (s : State) : Bool := s.pending.isSome

/-- A command word is accepted (spec R135). -/
def State.issue (s : State) (w : Word) : State := { s with pending := some w, done := false }

/-- finish(code, detail), spec R137: the one way a command ends. -/
def State.finish (s : State) (code : ResultCode) (detail : BitVec 4) : State :=
  { s with result := code, detail := detail, pending := none, done := true }

/-- A check of a command: whether it fails, and the code and detail the command then ends with. -/
structure Check where
  fails : Bool
  code : ResultCode
  detail : BitVec 4
  deriving DecidableEq, Repr

/-- The first check of an ordered list that fails (spec R141). -/
def firstFailure (checks : List Check) : Option Check := checks.find? (·.fails)

end Sys2Proof.Machine
end

