-- ==== Sys2Proof/Machine/Operands.lean ====
section
/-! DEFINITION. The operand forms: the frame-descriptor registers as numbers and byte strings (spec R18,
R20, R55), the security-control byte and its fields (spec R59, R76, R78), the levels and key-id codes
(spec R60, R61), and the regions of DBUF a command reads (spec R20, R23). -/

namespace Sys2Proof.Machine

/-- The key role of a 2-bit code (spec R61). -/
def KeyId.ofBits (b : BitVec 2) : KeyId :=
  if b = 0 then .link else if b = 1 then .network else if b = 2 then .transport else .load

/-- The 2-bit code of a key role (spec R61). -/
def KeyId.bits : KeyId → BitVec 2
  | .link => 0
  | .network => 1
  | .transport => 2
  | .load => 3

/-- The origin an ORIGIN bit names (spec R30). -/
def Origin.ofBit (b : Bool) : Origin := if b then .sniffed else .preconfigured

/-- The ORIGIN bit (spec R30). -/
def Origin.toBit : Origin → Bool
  | .preconfigured => false
  | .sniffed => true

/-- The level of a 3-bit number (spec R60). -/
def SecurityLevel.ofBits (b : BitVec 3) : SecurityLevel :=
  if b = 0 then .none else if b = 1 then .mic32 else if b = 2 then .mic64 else if b = 3 then .mic128
  else if b = 4 then .enc else if b = 5 then .encMic32 else if b = 6 then .encMic64 else .encMic128

/-- M, the MIC length of a level in bytes (spec R60). -/
def SecurityLevel.micLen : SecurityLevel → Nat
  | .none => 0
  | .mic32 => 4
  | .mic64 => 8
  | .mic128 => 16
  | .enc => 0
  | .encMic32 => 4
  | .encMic64 => 8
  | .encMic128 => 16

/-- ENC, whether the payload of a level is encrypted (spec R60). -/
def SecurityLevel.encrypts : SecurityLevel → Bool
  | .none | .mic32 | .mic64 | .mic128 => false
  | .enc | .encMic32 | .encMic64 | .encMic128 => true

/-- level, bits 2:0 of a security-control byte (spec R59). -/
def ctrlLevel (c : Byte) : BitVec 3 := c.extractLsb' 0 3

/-- key_id, bits 4:3 of a security-control byte (spec R59). -/
def ctrlKeyId (c : Byte) : KeyId := KeyId.ofBits (c.extractLsb' 3 2)

/-- nonce_present, bit 5 of a security-control byte (spec R59). No command reads it (spec R62). -/
def ctrlNoncePresent (c : Byte) : Bool := c.getLsbD 5

/-- SRC = SRC_HI ‖ SRC_LO (spec R18). -/
def State.src (s : State) : BitVec 64 := s.srcHi ++ s.srcLo

/-- The effective control byte (spec R76). -/
def State.effCtrl (s : State) : Byte := (s.secCtrl &&& 0xF8) ||| s.config.decodeLevel.setWidth 8

/-- The effective security level (spec R77). -/
def State.level (s : State) : SecurityLevel := SecurityLevel.ofBits (ctrlLevel s.effCtrl)

/-- The frame's key id (spec R78). -/
def State.frameKeyId (s : State) : KeyId := ctrlKeyId s.effCtrl

/-- nonce(src, fc, ctl), spec R79. -/
def buildNonce (src : BitVec 64) (fc : Word) (ctl : Byte) : Nonce :=
  nonceOfBytes (le 8 src.toNat ++ le 4 fc.toNat ++ [ctl])

/-- FRAME_OFS + l_a + l_p on unbounded naturals (spec R103, R131). -/
def State.frameEnd (s : State) : Nat := s.frameOfs.toNat + s.aadLen.toNat + s.payloadLen.toNat

/-- The associated data as stored (spec R20). -/
def State.aad (s : State) : Bytes := s.dbufRead s.frameOfs.toNat s.aadLen.toNat

/-- The payload region (spec R20). -/
def State.payload (s : State) : Bytes :=
  s.dbufRead (s.frameOfs.toNat + s.aadLen.toNat) s.payloadLen.toNat

/-- KR_COUNT (spec R32; log 9). -/
def State.krCount (s : State) : Nat := s.ring.length

/-- FC_COUNT (spec R33; log 9). -/
def State.fcCount (s : State) : Nat := s.cache.length

end Sys2Proof.Machine
end

