-- ==== Sys2Proof/Machine/Flags.lean ====
section
/-! DEFINITION. The status register and the other registers with fields, as the words a host reads: the
4-bit result codes (spec R138), STATUS (spec R13) with its interrupt bit (spec R144), its write-one-to-clear
bits (spec R13, R45), and the layouts of CONFIG, HDR_FLAGS, KR_ARG, RESULT_INFO and RD_META. -/

namespace Sys2Proof.Machine

/-- The 4-bit code of a result (spec R138). -/
def ResultCode.bits : ResultCode → BitVec 4
  | .ok => 0
  | .authFail => 1
  | .exhausted => 2
  | .structErr => 3
  | .noSrc => 4
  | .passThru => 5
  | .unverified => 6
  | .bounds => 7
  | .badCmd => 8
  | .krFull => 9
  | .badSlot => 10
  | .badMicLen => 11

/-- The details a completion with the given code may carry (spec R139). -/
def ResultCode.detailLegal : ResultCode → BitVec 4 → Bool
  | .structErr, d => 1 ≤ d.toNat && d.toNat ≤ 4
  | .bounds, d => 1 ≤ d.toNat && d.toNat ≤ 2
  | _, d => d == 0

/-- The interrupt output, IRQ = STATUS.DONE & CONFIG.IE (spec R144). -/
def State.irq (s : State) : Bool := s.done && s.config.ie

/-- STATUS as read (spec R13). -/
def State.statusWord (s : State) : Word :=
  (0 : BitVec 12) ++ bit s.aerr ++ bit s.irq ++ bit s.fcfull ++ bit s.werr ++ (0 : BitVec 4) ++ s.detail
    ++ s.result.bits ++ (0 : BitVec 2) ++ bit s.done ++ bit s.busy

/-- Writing 1 to a W1C bit of STATUS clears it; every other bit of the written value is ignored (spec R13). -/
def State.clearStatus (s : State) (v : Word) : State :=
  { s with
    done := s.done && !v.getLsbD 1
    werr := s.werr && !v.getLsbD 16
    fcfull := s.fcfull && !v.getLsbD 17
    aerr := s.aerr && !v.getLsbD 19 }

/-- CONFIG as read (spec R14). -/
def ConfigReg.word (c : ConfigReg) : Word := (0 : BitVec 23) ++ bit c.ie ++ (0 : BitVec 5) ++ c.decodeLevel

/-- CONFIG as written: reserved bits are ignored (spec R14, R11). -/
def ConfigReg.ofWord (w : Word) : ConfigReg := ⟨w.extractLsb' 0 3, w.getLsbD 8⟩

/-- HDR_FLAGS as read (spec R19). -/
def HdrFlags.word (h : HdrFlags) : Word :=
  (0 : BitVec 16) ++ h.keySeq ++ (0 : BitVec 6) ++ bit h.ksnValid ++ bit h.srcValid

/-- HDR_FLAGS as written (spec R19, R11). -/
def HdrFlags.ofWord (w : Word) : HdrFlags := ⟨w.getLsbD 0, w.getLsbD 1, w.extractLsb' 8 8⟩

/-- KR_ARG as read (spec R30). -/
def KrArg.word (a : KrArg) : Word :=
  (0 : BitVec 16) ++ a.slot ++ (0 : BitVec 5) ++ bit a.origin ++ a.cls

/-- KR_ARG as written (spec R30, R11). -/
def KrArg.ofWord (w : Word) : KrArg := ⟨w.extractLsb' 0 2, w.getLsbD 2, w.extractLsb' 8 8⟩

/-- RESULT_INFO as read (spec R29). -/
def ResultInfo.word (r : ResultInfo) : Word :=
  r.tried ++ (0 : BitVec 6) ++ bit r.fromCache ++ bit r.slotValid ++ r.slot

/-- RD_META as read (spec R31). -/
def RdMeta.word (m : RdMeta) : Word := (0 : BitVec 28) ++ bit m.origin ++ m.cls ++ bit m.valid

/-- RESULT_INFO with every field zero (spec R127). -/
def ResultInfo.zero : ResultInfo := ⟨0, false, false, 0⟩

end Sys2Proof.Machine
end

