-- ==== Sys2Proof/Machine/Housekeeping.lean ====
section
/-! DEFINITION. The housekeeping command NOP (spec R130) and the completion of an illegal command word
(spec R140). -/

namespace Sys2Proof.Machine

/-- NOP (spec R130). -/
def execNop (s : State) : Result := .next (s.finish .ok 0)

/-- BAD_CMD, the completion of an illegal command word (spec R57, R140). -/
def badCommand (s : State) : Result := .next (s.finish .badCmd 0)

end Sys2Proof.Machine
end

