-- ==== Sys2Proof/Machine/BlockCipher.lean ====
section
/-! DEFINITION. BlockCipher: AES-128 encryption of one block (spec R68 to R75) and ECB_ENC (spec R67).
The algorithm is the one the spec states (log 17).
The state is kept by columns, as spec R70 loads it; a key word is a column too. -/

namespace Sys2Proof.Machine

/-- Four bytes in order: a column s[0..3][c] of the state, or a key word (spec R70). -/
structure Column where
  r0 : Byte
  r1 : Byte
  r2 : Byte
  r3 : Byte
  deriving DecidableEq, Repr

/-- The 4 x 4 state by columns, or a round key by key words (spec R70, R74). -/
structure AesState where
  c0 : Column
  c1 : Column
  c2 : Column
  c3 : Column
  deriving DecidableEq, Repr

/-- Input bytes to columns, s[r][c] = b[r + 4c] (spec R70). -/
def loadState (b : Block) : AesState :=
  ⟨⟨b[0], b[1], b[2], b[3]⟩, ⟨b[4], b[5], b[6], b[7]⟩, ⟨b[8], b[9], b[10], b[11]⟩, ⟨b[12], b[13], b[14], b[15]⟩⟩

/-- Columns to output bytes, out[r + 4c] = s[r][c] (spec R70). -/
def unloadState (s : AesState) : Block :=
  #v[s.c0.r0, s.c0.r1, s.c0.r2, s.c0.r3, s.c1.r0, s.c1.r1, s.c1.r2, s.c1.r3,
     s.c2.r0, s.c2.r1, s.c2.r2, s.c2.r3, s.c3.r0, s.c3.r1, s.c3.r2, s.c3.r3]

/-- xtime (spec R71). -/
def xtime (a : Byte) : Byte := (a <<< 1) ^^^ (if a.getLsbD 7 then 0x1B else 0x00)

/-- a·0x03 = xtime(a) ^ a (spec R71). -/
def times3 (a : Byte) : Byte := xtime a ^^^ a

/-- The sum of xtime^i(a) over the set bits i < n of b. -/
def gfMulUpTo : Nat → Byte → Byte → Byte
  | 0, _, _ => 0
  | n + 1, a, b => (if b.getLsbD 0 then a else 0) ^^^ gfMulUpTo n (xtime a) (b >>> 1)

/-- Multiplication in GF(2^8): XOR over the set bits i of b of xtime^i(a) (spec R71). -/
def gfMul (a b : Byte) : Byte := gfMulUpTo 8 a b

/-- The S-box table, row x[7:4], column x[3:0] (spec R72). -/
def sboxRows : List (List Nat) :=
  [ [0x63,0x7C,0x77,0x7B,0xF2,0x6B,0x6F,0xC5,0x30,0x01,0x67,0x2B,0xFE,0xD7,0xAB,0x76],
    [0xCA,0x82,0xC9,0x7D,0xFA,0x59,0x47,0xF0,0xAD,0xD4,0xA2,0xAF,0x9C,0xA4,0x72,0xC0],
    [0xB7,0xFD,0x93,0x26,0x36,0x3F,0xF7,0xCC,0x34,0xA5,0xE5,0xF1,0x71,0xD8,0x31,0x15],
    [0x04,0xC7,0x23,0xC3,0x18,0x96,0x05,0x9A,0x07,0x12,0x80,0xE2,0xEB,0x27,0xB2,0x75],
    [0x09,0x83,0x2C,0x1A,0x1B,0x6E,0x5A,0xA0,0x52,0x3B,0xD6,0xB3,0x29,0xE3,0x2F,0x84],
    [0x53,0xD1,0x00,0xED,0x20,0xFC,0xB1,0x5B,0x6A,0xCB,0xBE,0x39,0x4A,0x4C,0x58,0xCF],
    [0xD0,0xEF,0xAA,0xFB,0x43,0x4D,0x33,0x85,0x45,0xF9,0x02,0x7F,0x50,0x3C,0x9F,0xA8],
    [0x51,0xA3,0x40,0x8F,0x92,0x9D,0x38,0xF5,0xBC,0xB6,0xDA,0x21,0x10,0xFF,0xF3,0xD2],
    [0xCD,0x0C,0x13,0xEC,0x5F,0x97,0x44,0x17,0xC4,0xA7,0x7E,0x3D,0x64,0x5D,0x19,0x73],
    [0x60,0x81,0x4F,0xDC,0x22,0x2A,0x90,0x88,0x46,0xEE,0xB8,0x14,0xDE,0x5E,0x0B,0xDB],
    [0xE0,0x32,0x3A,0x0A,0x49,0x06,0x24,0x5C,0xC2,0xD3,0xAC,0x62,0x91,0x95,0xE4,0x79],
    [0xE7,0xC8,0x37,0x6D,0x8D,0xD5,0x4E,0xA9,0x6C,0x56,0xF4,0xEA,0x65,0x7A,0xAE,0x08],
    [0xBA,0x78,0x25,0x2E,0x1C,0xA6,0xB4,0xC6,0xE8,0xDD,0x74,0x1F,0x4B,0xBD,0x8B,0x8A],
    [0x70,0x3E,0xB5,0x66,0x48,0x03,0xF6,0x0E,0x61,0x35,0x57,0xB9,0x86,0xC1,0x1D,0x9E],
    [0xE1,0xF8,0x98,0x11,0x69,0xD9,0x8E,0x94,0x9B,0x1E,0x87,0xE9,0xCE,0x55,0x28,0xDF],
    [0x8C,0xA1,0x89,0x0D,0xBF,0xE6,0x42,0x68,0x41,0x99,0x2D,0x0F,0xB0,0x54,0xBB,0x16]]

/-- SubByte (spec R72). -/
def sbox (x : Byte) : Byte :=
  BitVec.ofNat 8 ((sboxRows.getD (x.toNat / 16) []).getD (x.toNat % 16) 0)

/-- The affine map of the S-box's second description, A(y) (spec R72). -/
def sboxAffine (y : Byte) : Byte :=
  y ^^^ y.rotateLeft 1 ^^^ y.rotateLeft 2 ^^^ y.rotateLeft 3 ^^^ y.rotateLeft 4

/-- Byte-wise exclusive-or of two columns. -/
def Column.xor (a b : Column) : Column := ⟨a.r0 ^^^ b.r0, a.r1 ^^^ b.r1, a.r2 ^^^ b.r2, a.r3 ^^^ b.r3⟩

/-- The S-box on each byte of a column; on a key word, SubWord (spec R73, R74). -/
def Column.sub (a : Column) : Column := ⟨sbox a.r0, sbox a.r1, sbox a.r2, sbox a.r3⟩

/-- RotWord (spec R74). -/
def Column.rot (t : Column) : Column := ⟨t.r1, t.r2, t.r3, t.r0⟩

/-- MixColumns on one column (spec R73). -/
def Column.mix (a : Column) : Column :=
  ⟨xtime a.r0 ^^^ times3 a.r1 ^^^ a.r2 ^^^ a.r3,
   a.r0 ^^^ xtime a.r1 ^^^ times3 a.r2 ^^^ a.r3,
   a.r0 ^^^ a.r1 ^^^ xtime a.r2 ^^^ times3 a.r3,
   times3 a.r0 ^^^ a.r1 ^^^ a.r2 ^^^ xtime a.r3⟩

/-- SubBytes (spec R73). -/
def AesState.subBytes (s : AesState) : AesState := ⟨s.c0.sub, s.c1.sub, s.c2.sub, s.c3.sub⟩

/-- ShiftRows, s'[r][c] = s[r][(c + r) mod 4] (spec R73). -/
def AesState.shiftRows (s : AesState) : AesState :=
  ⟨⟨s.c0.r0, s.c1.r1, s.c2.r2, s.c3.r3⟩, ⟨s.c1.r0, s.c2.r1, s.c3.r2, s.c0.r3⟩,
   ⟨s.c2.r0, s.c3.r1, s.c0.r2, s.c1.r3⟩, ⟨s.c3.r0, s.c0.r1, s.c1.r2, s.c2.r3⟩⟩

/-- MixColumns (spec R73). -/
def AesState.mixColumns (s : AesState) : AesState := ⟨s.c0.mix, s.c1.mix, s.c2.mix, s.c3.mix⟩

/-- AddRoundKey (spec R73). -/
def AesState.addRoundKey (s k : AesState) : AesState :=
  ⟨s.c0.xor k.c0, s.c1.xor k.c1, s.c2.xor k.c2, s.c3.xor k.c3⟩

/-- Rcon[1..10] (spec R74). -/
def rcon : List Byte := [0x01, 0x02, 0x04, 0x08, 0x10, 0x20, 0x40, 0x80, 0x1B, 0x36]

/-- t of the key expansion at an index i divisible by 4: RotWord, SubWord and Rcon[i/4] of w[i-1] (spec R74). -/
def Column.scheduleCore (w : Column) (rc : Byte) : Column := w.rot.sub.xor ⟨rc, 0, 0, 0⟩

/-- The key words w[i], w[i+1], w[i+2], w[i+3] from the four before them and t (spec R74): each is the
word four before it XOR t, and t is then that word. -/
def chainKeyWords (k : AesState) (t : Column) : AesState :=
  ⟨k.c0.xor t, k.c1.xor (k.c0.xor t), k.c2.xor (k.c1.xor (k.c0.xor t)),
   k.c3.xor (k.c2.xor (k.c1.xor (k.c0.xor t)))⟩

/-- Round key j from round key j-1: the steps i = 4j .. 4j+3 of the key expansion (spec R74). -/
def nextRoundKey (k : AesState) (rc : Byte) : AesState := chainKeyWords k (k.c3.scheduleCore rc)

/-- The round keys after `k`, one for each remaining Rcon. -/
def expandKey : AesState → List Byte → List AesState
  | _, [] => []
  | k, rc :: rest => nextRoundKey k rc :: expandKey (nextRoundKey k rc) rest

/-- Round keys 1 to 10 of a key (spec R74). Round key 0 is the key itself. -/
def roundKeys (k : Block) : List AesState := expandKey (loadState k) rcon

/-- The rounds, one for each round key; the last has no MixColumns (spec R75). -/
def aesRounds : List AesState → AesState → AesState
  | [], s => s
  | [k], s => s.subBytes.shiftRows.addRoundKey k
  | k :: rest, s => aesRounds rest (s.subBytes.shiftRows.mixColumns.addRoundKey k)

/-- AES(k, b), spec R75. -/
def aes (k b : Block) : Block :=
  unloadState (aesRounds (roundKeys k) ((loadState b).addRoundKey (loadState k)))

/-- ECB_ENC (spec R67). -/
def execEcbEnc (s : State) : Result :=
  .next (State.finish { s with blkOut := aes s.key s.blkIn } .ok 0)

end Sys2Proof.Machine
end

