-- ==== Sys2Proof/Machine/Ccm.lean ====
section
/-! DEFINITION. CcmCore: the counter-mode and CBC-MAC transforms (spec R89 to R100) and the single-key
commands CCM_DEC (spec R104) and CCM_ENC (spec R105). K is the key, N the nonce, a the associated data,
c the ciphertext, m the plaintext, U the received tag, M its length. -/

namespace Sys2Proof.Machine

/-- A(N, i), spec R89, R63a. -/
def counterBlock (N : Nonce) (i : Nat) : Block := blockOf ([0x01] ++ N.toList ++ be 2 i)

/-- The keystream block S_i (spec R89). -/
def keystreamBlock (K : Block) (N : Nonce) (i : Nat) : Block := aes K (counterBlock N i)

/-- keystream(K, N, l), spec R92. -/
def keystream (K : Block) (N : Nonce) (l : Nat) : Bytes :=
  ((List.range (ceil16 l)).flatMap fun i => (keystreamBlock K N (i + 1)).toList).take l

/-- ctr(K, N, x), spec R92. -/
def ctr (K : Block) (N : Nonce) (x : Bytes) : Bytes := xorBytes x (keystream K N x.length)

/-- A tag masked, or unmasked, with S_0 (spec R93). -/
def maskTag (K : Block) (N : Nonce) (tag : Bytes) : Bytes :=
  xorBytes tag (keystreamBlock K N 0).toList

/-- The flags byte of B0 (spec R94, R63b). -/
def b0Flags (la M : Nat) : Byte :=
  BitVec.ofNat 8 ((if 0 < la then 0x40 else 0x00) ||| (((M - 2) / 2) <<< 3) ||| 0x01)

/-- B0 (spec R94). -/
def b0 (N : Nonce) (la lm M : Nat) : Block := blockOf ([b0Flags la M] ++ N.toList ++ be 2 lm)

/-- auth(a, m), spec R95. -/
def authInput (a m : Bytes) : Bytes :=
  (if 0 < a.length then pad16 (be 2 a.length ++ a) else []) ++ pad16 m

/-- cbcmac(K, N, a, m, M), spec R96. -/
def cbcMac (K : Block) (N : Nonce) (a m : Bytes) (M : Nat) : Bytes :=
  ((blocks16 (authInput a m)).foldl (fun X B => aes K (xorBlock X B)) (aes K (b0 N a.length m.length M))).toList.take M

/-- ccm_decrypt(K, N, a, c, U), spec R99; nothing is the document's AuthFailure. -/
def ccmDecrypt (K : Block) (N : Nonce) (a c U : Bytes) : Option Bytes :=
  if U.length = 0 then some (ctr K N c)
  else if cbcMac K N a (ctr K N c) U.length = maskTag K N U then some (ctr K N c)
  else none

/-- ccm_encrypt(K, N, a, m, M), spec R100. -/
def ccmEncrypt (K : Block) (N : Nonce) (a m : Bytes) (M : Nat) : Bytes :=
  if M = 0 then ctr K N m else ctr K N m ++ maskTag K N (cbcMac K N a m M)

/-- The legal tag lengths (spec R5, R22). -/
def micLenLegal (M : Nat) : Bool := M == 0 || M == 4 || M == 8 || M == 16

/-- The counter guard: 1 + ceil16(l_m) > 2^16 (spec R90). -/
def counterOverflows (lm : Nat) : Bool := 2 ^ 16 < 1 + ceil16 lm

/-- The length-field guard (spec R91). -/
def lengthFieldOverflows (M la lm : Nat) : Bool := 0 < M && (0xFFFF < la || 0xFFFF < lm)

/-- l_m of CCM_DEC and of CCM_ENC (spec R103). -/
def State.ccmTextLen (s : State) (decrypting : Bool) : Nat :=
  if decrypting then s.payloadLen.toNat - s.micLen.toNat else s.payloadLen.toNat

/-- The output length lo (spec R103). -/
def State.ccmOutputLen (s : State) (decrypting : Bool) : Nat :=
  if decrypting then s.ccmTextLen true else s.ccmTextLen false + s.micLen.toNat

/-- The checks of CCM_DEC and CCM_ENC, in order (spec R103). -/
def ccmChecks (decrypting : Bool) (s : State) : List Check :=
  [ ⟨!micLenLegal s.micLen.toNat, .badMicLen, 0⟩,
    ⟨decrypting && decide (s.payloadLen.toNat < s.micLen.toNat), .structErr, 1⟩,
    ⟨counterOverflows (s.ccmTextLen decrypting), .structErr, 2⟩,
    ⟨lengthFieldOverflows s.micLen.toNat s.aadLen.toNat (s.ccmTextLen decrypting), .structErr, 3⟩,
    ⟨decide (Config.dbufSize < s.frameEnd), .bounds, 1⟩,
    ⟨decide (Config.obufSize < s.ccmOutputLen decrypting), .bounds, 2⟩ ]

/-- The command produced an output: OBUF from offset 0 and OUT_LEN (spec R24, R39). -/
def State.deliver (s : State) (out : Bytes) : State :=
  { s.obufWrite 0 out with outLen := BitVec.ofNat 32 out.length }

/-- The command ran its cipher steps and produced no output: OUT_LEN is 0 and OBUF is kept (spec R24, R39). -/
def State.withhold (s : State) : State := { s with outLen := 0 }

/-- CCM_DEC (spec R104). -/
def execCcmDec (s : State) : Result :=
  match firstFailure (ccmChecks true s) with
  | some c => .next (s.finish c.code c.detail)
  | none =>
    match ccmDecrypt s.key s.nonce s.aad (s.payload.take (s.ccmTextLen true)) (s.payload.drop (s.ccmTextLen true)) with
    | none => .next (s.withhold.finish .authFail 0)
    | some m => .next ((s.deliver m).finish .ok 0)

/-- CCM_ENC (spec R105). -/
def execCcmEnc (s : State) : Result :=
  match firstFailure (ccmChecks false s) with
  | some c => .next (s.finish c.code c.detail)
  | none =>
    .next ((s.deliver (ccmEncrypt s.key s.nonce s.aad s.payload s.micLen.toNat)).finish .ok 0)

end Sys2Proof.Machine
end

