-- ==== Sys2Proof/Machine/KeyRing.lean ====
section
/-! DEFINITION. KeyRing and flow cache: KR_LOAD, KR_CLEAR, KR_READ (spec R107 to R109), remember_success
and FC_REMEMBER (spec R110, R111), and the candidate order (spec R112, R113). -/

namespace Sys2Proof.Machine

/-- The entry KR_LOAD appends (spec R107). -/
def State.loadedEntry (s : State) : KeyEntry :=
  ⟨s.key, KeyId.ofBits s.krArg.cls, Origin.ofBit s.krArg.origin, s.krProv, s.krLabel⟩

/-- KR_LOAD (spec R107). -/
def execKrLoad (s : State) : Result :=
  if s.krCount = Config.krSlots then .next (s.finish .krFull 0)
  else
    .next (State.finish
      { s with
        ring := s.ring ++ [s.loadedEntry]
        resultInfo := ⟨BitVec.ofNat 8 s.krCount, true, false, 0⟩ } .ok 0)

/-- KR_CLEAR (spec R108). -/
def execKrClear (s : State) : Result := .next (State.finish { s with ring := [], cache := [] } .ok 0)

/-- KR_READ (spec R109). -/
def execKrRead (s : State) : Result :=
  match s.ring[s.krArg.slot.toNat]? with
  | none => .next (s.finish .badSlot 0)
  | some e =>
    .next (State.finish
      { s with
        rdKey := e.key
        rdMeta := ⟨true, e.cls.bits, e.origin.toBit⟩
        rdProv := e.prov
        rdLabel := e.label } .ok 0)

/-- The flow test of the cache (spec R110, R113). -/
def FlowEntry.isFlow (e : FlowEntry) (src : BitVec 64) (kid : KeyId) : Bool := e.src == src && e.kid == kid

/-- The cache entry of a flow (spec R110, R113). -/
def State.cached (s : State) (src : BitVec 64) (kid : KeyId) : Option FlowEntry :=
  s.cache.find? (·.isFlow src kid)

/-- The slot of a flow's entry overwritten (spec R110). -/
def overwriteFlow (src : BitVec 64) (kid : KeyId) (slot : Byte) : List FlowEntry → List FlowEntry
  | [] => []
  | e :: rest =>
    if e.isFlow src kid then { e with slot := slot } :: rest else e :: overwriteFlow src kid slot rest

/-- remember_success (spec R110). -/
def State.rememberSuccess (s : State) (src : BitVec 64) (kid : KeyId) (slot : Byte) : State :=
  if (s.cached src kid).isSome then { s with cache := overwriteFlow src kid slot s.cache }
  else if s.fcCount < Config.fcSlots then { s with cache := s.cache ++ [⟨src, kid, slot⟩] }
  else { s with fcfull := true }

/-- The checks of FC_REMEMBER, in order (spec R111). -/
def fcChecks (s : State) : List Check :=
  [ ⟨decide (s.krCount ≤ s.krArg.slot.toNat), .badSlot, 0⟩, ⟨!s.hdrFlags.srcValid, .noSrc, 0⟩ ]

/-- FC_REMEMBER (spec R111). -/
def execFcRemember (s : State) : Result :=
  match firstFailure (fcChecks s) with
  | some c => .next (s.finish c.code c.detail)
  | none => .next ((s.rememberSuccess s.src (ctrlKeyId s.secCtrl) s.krArg.slot).finish .ok 0)

/-- cls(kid): the class of sniffed keys a frame's key id selects (spec R112). -/
def KeyId.sniffedClass : KeyId → KeyId
  | .network => .network
  | .link | .transport | .load => .link

/-- A candidate: a key-ring slot, and whether it comes from the flow cache (spec R113). -/
structure Candidate where
  slot : Nat
  fromCache : Bool
  deriving DecidableEq, Repr

/-- The slots from `n` on whose entry passes a test, ascending. -/
def slotsWhere (test : KeyEntry → Bool) : Nat → List KeyEntry → List Nat
  | _, [] => []
  | n, e :: rest => if test e then n :: slotsWhere test (n + 1) rest else slotsWhere test (n + 1) rest

/-- A sniffed key of the class the key id selects (spec R113, part 2). -/
def KeyEntry.sniffedFor (e : KeyEntry) (kid : KeyId) : Bool :=
  e.origin == .sniffed && e.cls == kid.sniffedClass

/-- A pre-configured key (spec R113, part 3). -/
def KeyEntry.isPreconfigured (e : KeyEntry) : Bool := e.origin == .preconfigured

/-- candidates_for(src, kid), spec R113. Duplicates stay (spec R114). -/
def State.candidatesFor (s : State) (src : BitVec 64) (kid : KeyId) : List Candidate :=
  (match s.cached src kid with
    | some e => [⟨e.slot.toNat, true⟩]
    | none => [])
  ++ (slotsWhere (·.sniffedFor kid) 0 s.ring).map (⟨·, false⟩)
  ++ (slotsWhere (·.isPreconfigured) 0 s.ring).map (⟨·, false⟩)

end Sys2Proof.Machine
end

