-- ==== Sys2Proof/Machine/KeyedHash.lean ====
section
/-! DEFINITION. KeyedHash: the hash padding, the Matyas-Meyer-Oseas hash, the key derivation (spec R82 to
R87), and the commands HASH (spec R85) and DERIVE (spec R88). -/

namespace Sys2Proof.Machine

/-- The zero bytes of the hash padding of an n-byte input: the smallest z with
(n + 1 + z + 2) mod 16 = 0 (spec R82). -/
def padZeros (n : Nat) : Nat := (16 - (n + 3) % 16) % 16

/-- mmo_pad (spec R82). -/
def mmoPad (x : Bytes) : Bytes :=
  x ++ [0x80] ++ List.replicate (padZeros x.length) 0 ++ be 2 (8 * x.length)

/-- One step of the hash: the chaining value is the key, the message block the block (spec R84). -/
def mmoStep (h m : Block) : Block := xorBlock (aes h m) m

/-- mmo_hash (spec R84). -/
def mmoHash (x : Bytes) : Block := (blocks16 (mmoPad x)).foldl mmoStep zeroBlock

/-- ipad and opad bytes (spec R65). -/
def ipad : Byte := 0x36

/-- See `ipad`. -/
def opad : Byte := 0x5C

/-- A key with every byte XORed with one pad byte (spec R86). -/
def xorPad (k : Block) (pad : Byte) : Block := Vector.ofFn fun i => k[i] ^^^ pad

/-- derive_key (spec R86). -/
def deriveKey (k : Block) (sel : Byte) : Block :=
  mmoHash ((xorPad k opad).toList ++ (mmoHash ((xorPad k ipad).toList ++ [sel])).toList)

/-- The selector of a TransportKey (spec R64). -/
def transportSelector : Byte := 0x00

/-- The selector of a LoadKey (spec R64). -/
def loadSelector : Byte := 0x02

/-- The checks of HASH, in order (spec R85). -/
def hashChecks (s : State) : List Check :=
  [ ⟨decide (0xFFFF < 8 * s.hashLen.toNat), .structErr, 4⟩,
    ⟨decide (Config.dbufSize < s.hashOfs.toNat + s.hashLen.toNat), .bounds, 1⟩ ]

/-- HASH (spec R85). -/
def execHash (s : State) : Result :=
  match firstFailure (hashChecks s) with
  | some c => .next (s.finish c.code c.detail)
  | none =>
    .next (State.finish { s with digest := mmoHash (s.dbufRead s.hashOfs.toNat s.hashLen.toNat) } .ok 0)

/-- DERIVE (spec R88). -/
def execDerive (sel : Byte) (s : State) : Result :=
  .next (State.finish { s with digest := deriveKey s.key sel } .ok 0)

end Sys2Proof.Machine
end

