-- ==== Sys2Proof/Machine/Nonce.lean ====
section
/-! DEFINITION. NonceBuilder: the command NONCE_BUILD (spec R80). The effective control byte and the nonce
itself are operand forms (Operands.lean; spec R76, R79). -/

namespace Sys2Proof.Machine

/-- The nonce of the described frame (spec R79, R76): the one DECRYPT_FRAME builds for itself (spec R81). -/
def State.frameNonce (s : State) : Nonce := buildNonce s.src s.frameCnt s.effCtrl

/-- NONCE_BUILD (spec R80). -/
def execNonceBuild (s : State) : Result :=
  if s.hdrFlags.srcValid then .next (State.finish { s with nonce := s.frameNonce } .ok 0)
  else .next (s.finish .noSrc 0)

end Sys2Proof.Machine
end

