-- ==== Sys2Proof/Machine/Orchestrator.lean ====
section
/-! DEFINITION. DecryptOrchestrator: DECRYPT_FRAME (spec R116 to R129). -/

namespace Sys2Proof.Machine

/-- l_m = l_p - M of the described frame (spec R117, R118). -/
def State.frameTextLen (s : State) : Nat := s.payloadLen.toNat - s.level.micLen

/-- al and ml: the two lengths the tag computation encodes (spec R118, R123). -/
def State.tagLengths (s : State) : Nat × Nat :=
  if s.level.encrypts then (s.aadLen.toNat, s.frameTextLen) else (s.aadLen.toNat + s.frameTextLen, 0)

/-- The checks of DECRYPT_FRAME, in order (spec R118). -/
def frameChecks (s : State) : List Check :=
  [ ⟨decide (s.payloadLen.toNat < s.level.micLen), .structErr, 1⟩,
    ⟨s.level.encrypts && counterOverflows s.frameTextLen, .structErr, 2⟩,
    ⟨lengthFieldOverflows s.level.micLen s.tagLengths.1 s.tagLengths.2, .structErr, 3⟩,
    ⟨decide (Config.dbufSize < s.frameEnd), .bounds, 1⟩,
    ⟨decide (Config.obufSize < s.frameTextLen), .bounds, 2⟩ ]

/-- ct, the payload region without the tag (spec R117, R123). -/
def State.frameText (s : State) : Bytes := s.payload.take s.frameTextLen

/-- U, the tag at the end of the payload region (spec R117, R123). -/
def State.frameTag (s : State) : Bytes := s.payload.drop s.frameTextLen

/-- The associated data with the security-control byte normalised (spec R121). -/
def State.patchedAad (s : State) : Bytes := s.aad.set s.ctrlOfs.toNat s.effCtrl

/-- The key of a slot. A slot outside the ring is named by no valid cache entry (spec R115); in a
state that breaks that invariant the value is free (log 9). -/
def State.slotKey (s : State) (slot : Nat) : Block :=
  match s.ring[slot]? with
  | some e => e.key
  | none => Config.staleKey s.epoch slot

/-- ek, the effective key of a key under a key id (spec R122). -/
def effectiveKey (kid : KeyId) (k : Block) : Block :=
  match kid with
  | .transport => deriveKey k transportSelector
  | .load => deriveKey k loadSelector
  | .network | .link => k

/-- attempt with an effective key (spec R123): the output on success, nothing on an authentication failure. -/
def attemptWith (enc : Bool) (K : Block) (N : Nonce) (a ct U : Bytes) : Option Bytes :=
  if enc then ccmDecrypt K N a ct U
  else (ccmDecrypt K N (a ++ ct) [] U).map fun _ => ct

/-- attempt(slot), spec R123. -/
def State.attempt (s : State) (slot : Nat) : Option Bytes :=
  attemptWith s.level.encrypts (effectiveKey s.frameKeyId (s.slotKey slot)) s.frameNonce s.patchedAad
    s.frameText s.frameTag

/-- How the candidate loop ends (spec R124). -/
inductive Trial where
  /-- The first candidate that succeeded, its output, and how many were tried (spec R125). -/
  | decrypted (c : Candidate) (tried : Nat) (out : Bytes)
  /-- None succeeded (spec R126). -/
  | exhausted (tried : Nat)
  deriving DecidableEq, Repr

/-- The candidate loop, with `tried` candidates behind it (spec R124). -/
def tryCandidates (attempt : Nat → Option Bytes) : Nat → List Candidate → Trial
  | tried, [] => .exhausted tried
  | tried, c :: rest =>
    match attempt c.slot with
    | some out => .decrypted c (tried + 1) out
    | none => tryCandidates attempt (tried + 1) rest

/-- TryingKeys for the described frame (spec R124). -/
def State.tryFrame (s : State) : Trial :=
  tryCandidates s.attempt 0 (s.candidatesFor s.src s.frameKeyId)

/-- Decrypted (spec R125). -/
def State.frameDecrypted (s : State) (c : Candidate) (tried : Nat) (out : Bytes) : State :=
  (({ s.deliver out with
      resultInfo := ⟨BitVec.ofNat 8 c.slot, true, c.fromCache, BitVec.ofNat 16 tried⟩ } : State).rememberSuccess
    s.src s.frameKeyId (BitVec.ofNat 8 c.slot)).finish .ok 0

/-- Exhausted, or at an integrity-only level unverified (spec R126). -/
def State.frameExhausted (s : State) (tried : Nat) : State :=
  if s.level.encrypts then
    State.finish { s.withhold with resultInfo := ⟨0, false, false, BitVec.ofNat 16 tried⟩ } .exhausted 0
  else
    State.finish { s.deliver s.frameText with resultInfo := ⟨0, false, false, BitVec.ofNat 16 tried⟩ } .unverified 0

/-- No source address (spec R120). -/
def State.frameNoSource (s : State) : State :=
  if s.level.encrypts then s.withhold.finish .noSrc 0 else (s.deliver s.frameText).finish .noSrc 0

/-- DECRYPT_FRAME after RESULT_INFO is set to 0 (spec R127, R128). -/
def State.decryptFrame (s : State) : State :=
  match firstFailure (frameChecks s) with
  | some c => s.finish c.code c.detail
  | none =>
    if s.level = .none then (s.deliver s.frameText).finish .passThru 0
    else if s.hdrFlags.srcValid then
      match s.tryFrame with
      | .decrypted c tried out => s.frameDecrypted c tried out
      | .exhausted tried => s.frameExhausted tried
    else s.frameNoSource

/-- DECRYPT_FRAME (spec R128; log 15). -/
def execDecryptFrame (s : State) : Result :=
  .next (State.decryptFrame { s with resultInfo := ResultInfo.zero })

end Sys2Proof.Machine
end

