-- ==== Sys2Proof/Machine/Dispatch.lean ====
section
/-! DEFINITION. exec: one arm a command, each one direct call of its meaning. -/

namespace Sys2Proof.Machine

def exec (i : Instr) (s : State) : Host.Outcome State Fault Refusal :=
  match i with
  | .nop => Sys2Proof.Machine.execNop s
  | .ecbEnc => Sys2Proof.Machine.execEcbEnc s
  | .nonceBuild => Sys2Proof.Machine.execNonceBuild s
  | .hash => Sys2Proof.Machine.execHash s
  | .derive sel => Sys2Proof.Machine.execDerive sel s
  | .ccmDec => Sys2Proof.Machine.execCcmDec s
  | .ccmEnc => Sys2Proof.Machine.execCcmEnc s
  | .krLoad => Sys2Proof.Machine.execKrLoad s
  | .krClear => Sys2Proof.Machine.execKrClear s
  | .krRead => Sys2Proof.Machine.execKrRead s
  | .fcRemember => Sys2Proof.Machine.execFcRemember s
  | .decryptFrame => Sys2Proof.Machine.execDecryptFrame s

end Sys2Proof.Machine
end

