-- ==== Sys2Proof/Machine/Engine.lean ====
section
/-! DEFINITION. The engine agent: its one step, the completion of the pending command (spec R136, R157). -/

namespace Sys2Proof.Machine

/-- The completion of a command word (spec R136): the command it decodes to is run, or BAD_CMD. -/
def complete (w : Word) (s : State) : Result :=
  match decodeWord w with
  | .ok i => exec i s
  | .error _ => badCommand s

/-- The engine's turn: its step is enabled exactly while a command is pending (spec R157); a turn it
cannot use changes nothing. -/
def engineTurn (s : State) : Result :=
  match s.pending with
  | some w => complete w s
  | none => .next s

end Sys2Proof.Machine
end

