-- ==== Sys2Proof/Machine/HostBus.lean ====
section
/-! DEFINITION. The host agent's accesses to the register window: the register map (spec R10, R11), reads
and writes of 8, 16 and 32 bits with their alignment (spec R41 to R46), command issue by a 32-bit write
to CMD (spec R12, R135), the reset input (spec R153 to R155), and the window's place in the host's address
space (spec R53). -/

namespace Sys2Proof.Machine

/-! ### The register map -/

/-- The offset of each 32-bit register (spec R10). -/
def Reg.offset : Reg → Nat
  | .cmd => 0x000
  | .status => 0x004
  | .config => 0x008
  | .id => 0x00C
  | .secCtrl => 0x010
  | .frameCnt => 0x014
  | .srcLo => 0x018
  | .srcHi => 0x01C
  | .hdrFlags => 0x020
  | .frameOfs => 0x024
  | .aadLen => 0x028
  | .payloadLen => 0x02C
  | .ctrlOfs => 0x030
  | .micLen => 0x034
  | .hashOfs => 0x038
  | .hashLen => 0x03C
  | .outLen => 0x040
  | .krCount => 0x044
  | .krArg => 0x048
  | .krProv => 0x04C
  | .krLabel => 0x050
  | .resultInfo => 0x054
  | .fcCount => 0x058
  | .rdMeta => 0x0D0
  | .rdProv => 0x0D4
  | .rdLabel => 0x0D8

/-- Every 32-bit register of the map. -/
def Reg.all : List Reg :=
  [.cmd, .status, .config, .id, .secCtrl, .frameCnt, .srcLo, .srcHi, .hdrFlags, .frameOfs, .aadLen,
   .payloadLen, .ctrlOfs, .micLen, .hashOfs, .hashLen, .outLen, .krCount, .krArg, .krProv, .krLabel,
   .resultInfo, .fcCount, .rdMeta, .rdProv, .rdLabel]

/-- The offset of byte 0 of each array (spec R10). -/
def ArrayReg.base : ArrayReg → Nat
  | .key => 0x060
  | .blkIn => 0x070
  | .blkOut => 0x080
  | .nonce => 0x090
  | .digest => 0x0A0
  | .rdKey => 0x0C0

/-- The length of each array (spec R10). -/
def ArrayReg.size : ArrayReg → Nat
  | .nonce => 13
  | .key | .blkIn | .blkOut | .digest | .rdKey => 16

/-- Every array of the map. -/
def ArrayReg.all : List ArrayReg := [.key, .blkIn, .blkOut, .nonce, .digest, .rdKey]

/-- The offset of DBUF in the window (spec R37b). -/
def dbufBase : Nat := 0x1000

/-- The offset of OBUF in the window (spec R37c). -/
def obufBase : Nat := 0x2000

/-- The size of the window (spec R10). -/
def windowSize : Nat := 0x3000

/-- What stands at a byte offset below 0x1000. -/
def locateRegister (ofs : Nat) : Loc :=
  match Reg.all.find? (fun r => r.offset == ofs / 4 * 4) with
  | some r => .reg r (ofs % 4)
  | none =>
    match ArrayReg.all.find? (fun a => a.base ≤ ofs && ofs < a.base + a.size) with
    | some a => .array a (ofs - a.base)
    | none => .reserved

/-- What stands at a byte offset of the window (spec R10, R37). -/
def locate (ofs : Nat) : Loc :=
  if ofs < dbufBase then locateRegister ofs
  else if ofs < obufBase then
    if ofs - dbufBase < Config.dbufSize then .dbuf (ofs - dbufBase) else .reserved
  else if ofs < windowSize then
    if ofs - obufBase < Config.obufSize then .obuf (ofs - obufBase) else .reserved
  else .reserved

/-! ### The window in the host's address space -/

/-- The address at which the host finds an offset of the window (spec R10, R53). -/
def busAddress (ofs : Nat) : Nat := Config.coreBase + ofs

/-- The offset a host address selects, if it lies in the window (spec R10, R53). -/
def windowOffset (addr : Nat) : Option Nat :=
  if Config.coreBase ≤ addr ∧ addr < Config.coreBase + windowSize then some (addr - Config.coreBase)
  else none

/-! ### Reads -/

/-- A 32-bit register as the host reads it (spec R10 to R31). -/
def State.regWord (s : State) : Reg → Word
  | .cmd => 0
  | .status => s.statusWord
  | .config => s.config.word
  | .id => Config.coreId
  | .secCtrl => s.secCtrl.setWidth 32
  | .frameCnt => s.frameCnt
  | .srcLo => s.srcLo
  | .srcHi => s.srcHi
  | .hdrFlags => s.hdrFlags.word
  | .frameOfs => s.frameOfs
  | .aadLen => s.aadLen
  | .payloadLen => s.payloadLen
  | .ctrlOfs => s.ctrlOfs
  | .micLen => s.micLen.setWidth 32
  | .hashOfs => s.hashOfs
  | .hashLen => s.hashLen
  | .outLen => s.outLen
  | .krCount => (BitVec.ofNat 9 s.krCount).setWidth 32
  | .krArg => s.krArg.word
  | .krProv => s.krProv
  | .krLabel => s.krLabel
  | .resultInfo => s.resultInfo.word
  | .fcCount => (BitVec.ofNat 9 s.fcCount).setWidth 32
  | .rdMeta => s.rdMeta.word
  | .rdProv => s.rdProv
  | .rdLabel => s.rdLabel

/-- The bytes of an array register (spec R10). -/
def State.arrayBytes (s : State) : ArrayReg → Bytes
  | .key => s.key.toList
  | .blkIn => s.blkIn.toList
  | .blkOut => s.blkOut.toList
  | .nonce => s.nonce.toList
  | .digest => s.digest.toList
  | .rdKey => s.rdKey.toList

/-- The byte the host reads at a location (spec R10, R11). -/
def State.readLoc (s : State) : Loc → Byte
  | .reg r k => lane (s.regWord r) k
  | .array a i => (s.arrayBytes a).getD i 0
  | .dbuf i => s.dbufByte i
  | .obuf i => s.obufByte i
  | .reserved => 0

/-- The byte the host reads at an offset. -/
def State.readByte (s : State) (ofs : Nat) : Byte := s.readLoc (locate ofs)

/-- The bytes an access covers (spec R41). -/
def Width.bytes : Width → Nat
  | .w8 => 1
  | .w16 => 2
  | .w32 => 4

/-- Natural alignment (spec R42). -/
def Width.aligned (w : Width) (ofs : Nat) : Bool := ofs % w.bytes == 0

/-- The bus value of a read: little-endian, zero above the access (spec R43; log 11); 0 when misaligned (spec R42). -/
def State.busRead (s : State) (w : Width) (ofs : Nat) : Word :=
  if w.aligned ofs then BitVec.ofNat 32 (fromLe ((List.range w.bytes).map fun i => s.readByte (ofs + i)))
  else 0

/-- A misaligned access sets AERR (spec R42). -/
def State.noteAlignment (s : State) (w : Width) (ofs : Nat) : State :=
  { s with aerr := s.aerr || !w.aligned ofs }

/-- A host read: its value goes to the host, and nothing in the core changes but AERR when it is
misaligned (spec R42, R45). -/
def State.hostRead (s : State) (w : Width) (ofs : Nat) : State :=
  { s.noteAlignment w ofs with readData := s.busRead w ofs }

/-! ### Writes -/

/-- A read-write register takes a new value; CMD, STATUS and the read-only registers are not written
this way (spec R10, R11). -/
def State.storeReg (s : State) (r : Reg) (v : Word) : State :=
  match r with
  | .config => { s with config := ConfigReg.ofWord v }
  | .secCtrl => { s with secCtrl := v.setWidth 8 }
  | .frameCnt => { s with frameCnt := v }
  | .srcLo => { s with srcLo := v }
  | .srcHi => { s with srcHi := v }
  | .hdrFlags => { s with hdrFlags := HdrFlags.ofWord v }
  | .frameOfs => { s with frameOfs := v }
  | .aadLen => { s with aadLen := v }
  | .payloadLen => { s with payloadLen := v }
  | .ctrlOfs => { s with ctrlOfs := v }
  | .micLen => { s with micLen := v.setWidth 8 }
  | .hashOfs => { s with hashOfs := v }
  | .hashLen => { s with hashLen := v }
  | .krArg => { s with krArg := KrArg.ofWord v }
  | .krProv => { s with krProv := v }
  | .krLabel => { s with krLabel := v }
  | .cmd | .status | .id | .outLen | .krCount | .resultInfo | .fcCount | .rdMeta | .rdProv | .rdLabel => s

/-- One byte of a 32-bit register written: STATUS clears the W1C bits written as 1, a read-write register
takes the byte, every other register ignores it (spec R11, R13, R44). -/
def State.writeRegByte (s : State) (r : Reg) (k : Nat) (b : Byte) : State :=
  match r with
  | .status => s.clearStatus (inLane k b)
  | _ => s.storeReg r (setLane (s.regWord r) k b)

/-- One byte of an array written; the read-only arrays ignore it (spec R10, R11). -/
def State.writeArrayByte (s : State) (a : ArrayReg) (i : Nat) (b : Byte) : State :=
  match a with
  | .key => { s with key := s.key.setIfInBounds i b }
  | .blkIn => { s with blkIn := s.blkIn.setIfInBounds i b }
  | .nonce => { s with nonce := s.nonce.setIfInBounds i b }
  | .blkOut | .digest | .rdKey => s

/-- One byte written by the host at a location (spec R10, R11, R37). -/
def State.writeLoc (s : State) (l : Loc) (b : Byte) : State :=
  match l with
  | .reg r k => s.writeRegByte r k b
  | .array a i => s.writeArrayByte a i b
  | .dbuf i => { s with dbuf := Memory.write s.dbuf i b }
  | .obuf _ => s
  | .reserved => s

/-- The low `n` bytes of a bus value written from an offset on, each subject to its own access type
(spec R43, R44; log 16). -/
def State.storeBytes (s : State) (ofs : Nat) (v : Word) : Nat → State
  | 0 => s
  | n + 1 => (s.storeBytes ofs v n).writeLoc (locate (ofs + n)) (lane v n)

/-- An aligned write while the core is idle: a 32-bit write to CMD issues a command, any other write
stores the bytes it covers (spec R12, R44, R45, R135). -/
def State.store (s : State) (w : Width) (ofs : Nat) (v : Word) : State :=
  if w = .w32 ∧ ofs = Reg.offset .cmd then s.issue v else s.storeBytes ofs v w.bytes

/-- A host write. While BUSY = 1 it is discarded and sets WERR (spec R46); misaligned it is discarded and
sets AERR (spec R42); misaligned while BUSY = 1 it sets both (spec R162; log 6). -/
def State.hostWrite (s : State) (w : Width) (ofs : Nat) (v : Word) : State :=
  if s.busy then { s.noteAlignment w ofs with werr := true }
  else if w.aligned ofs then s.store w ofs v
  else s.noteAlignment w ofs

/-! ### The reset input -/

/-- The reset input asserted: every state of the core takes its reset value, a pending command is gone,
and the buffers hold new draws (spec R153 to R155, R40). The host's own fields stay (log 8). -/
def State.assertReset (s : State) : State :=
  { State.reset with epoch := s.epoch + 1, agenda := s.agenda, readData := s.readData }

end Sys2Proof.Machine
end

