-- ==== Sys2Proof/Machine/Schedule.lean ====
section
/-! DEFINITION. The schedule: one item of the agenda performed (spec R48, R157; log 1), and a command
placed where the engine's next turn takes it from. -/

namespace Sys2Proof.Machine

/-- An access at an offset outside the window is no access to the core (spec R37; log 5). -/
def inWindow (ofs : Nat) (r : Result) : Result := if ofs < windowSize then r else .fault (.outsideWindow ofs)

/-- One item of the schedule performed. -/
def perform (e : HostEvent) (s : State) : Result :=
  match e with
  | .read w ofs => inWindow ofs (.next (s.hostRead w ofs))
  | .write w ofs v => inWindow ofs (.next (s.hostWrite w ofs v))
  | .reset => .next s.assertReset
  | .engine => engineTurn s

/-- The next transition of the whole machine. With nothing left on the agenda the engine has its turn: an
enabled completion is eventually taken (spec R157), and an idle core stays as it is (spec R152). -/
def advance (s : State) : Result :=
  match s.agenda with
  | [] => engineTurn s
  | e :: rest => perform e { s with agenda := rest }

/-- A command word accepted by the core, the engine's turn next (spec R135; log 14). -/
def State.placeCommand (s : State) (w : Word) : State :=
  { s.issue w with agenda := if s.agenda = [] then [] else .engine :: s.agenda }

end Sys2Proof.Machine
end

