-- ==== Sys2Proof/Machine/Step.lean ====
section
/-! DEFINITION. The step function, and the placing of an instruction where it fetches. -/

namespace Sys2Proof.Machine

/-- One transition of the machine: the next item of the schedule (spec R157). -/
def step (s : State) : Host.Outcome State Fault Refusal := advance s

/-- `s` with the opcode-table word in the pending-command latch, the engine's turn next, so that the
next step completes it. It stands for a host write of the word to CMD (spec R135; log 14). -/
def State.withFetchWord (s : State) (nbits w : Nat) : State :=
  s.placeCommand (BitVec.ofNat 32 (w % 2 ^ nbits))

end Sys2Proof.Machine
end

