-- ==== Sys2Proof/Machine/Cost.lean ====
section
/-! DEFINITION. The number of AES block encryptions a command makes, counted from the blocks its
functions fold over (spec R102, R164). A cost only: no meaning reads it. -/

namespace Sys2Proof.Machine

/-- AES calls of mmo_hash: one a padded block (spec R84). -/
def hashCalls (x : Bytes) : Nat := (blocks16 (mmoPad x)).length

/-- AES calls of derive_key: those of its two hashes (spec R86). -/
def deriveCalls (k : Block) (sel : Byte) : Nat :=
  hashCalls ((xorPad k ipad).toList ++ [sel])
    + hashCalls ((xorPad k opad).toList ++ (mmoHash ((xorPad k ipad).toList ++ [sel])).toList)

/-- AES calls of cbcmac: B0 and one an absorbed block (spec R96). -/
def cbcMacCalls (a m : Bytes) : Nat := 1 + (blocks16 (authInput a m)).length

/-- AES calls of ccm_decrypt and ccm_encrypt: the keystream and, when there is a tag, S_0 and the
CBC-MAC (spec R99, R100). -/
def ccmCalls (a m : Bytes) (M : Nat) : Nat :=
  ceil16 m.length + if M = 0 then 0 else 1 + cbcMacCalls a m

/-- How many candidates a trial has tried (spec R124). -/
def Trial.tried : Trial → Nat
  | .decrypted _ n _ => n
  | .exhausted n => n

/-- AES calls of one attempt (spec R123): the derivation, if the key id asks for one, and the tag check. -/
def State.attemptCalls (s : State) (slot : Nat) : Nat :=
  (match s.frameKeyId with
    | .transport => deriveCalls (s.slotKey slot) transportSelector
    | .load => deriveCalls (s.slotKey slot) loadSelector
    | .network | .link => 0)
  + (if s.level.encrypts then ccmCalls s.patchedAad s.frameText s.frameTag.length
     else ccmCalls (s.patchedAad ++ s.frameText) [] s.frameTag.length)

/-- AES calls of DECRYPT_FRAME: those of the candidates it tries (spec R164). -/
def State.frameCalls (s : State) : Nat :=
  if (firstFailure (frameChecks s)).isSome || s.level == .none || !s.hdrFlags.srcValid then 0
  else (((s.candidatesFor s.src s.frameKeyId).take s.tryFrame.tried).map fun c => s.attemptCalls c.slot).sum

/-- AES calls of a command (spec R164). -/
def aesCalls (i : Instr) (s : State) : Nat :=
  match i with
  | .nop => 0
  | .ecbEnc => 1
  | .nonceBuild => 0
  | .hash =>
    if (firstFailure (hashChecks s)).isSome then 0
    else hashCalls (s.dbufRead s.hashOfs.toNat s.hashLen.toNat)
  | .derive sel => deriveCalls s.key sel
  | .ccmDec =>
    if (firstFailure (ccmChecks true s)).isSome then 0
    else ccmCalls s.aad (s.payload.take (s.ccmTextLen true)) s.micLen.toNat
  | .ccmEnc =>
    if (firstFailure (ccmChecks false s)).isSome then 0 else ccmCalls s.aad s.payload s.micLen.toNat
  | .krLoad => 0
  | .krClear => 0
  | .krRead => 0
  | .fcRemember => 0
  | .decryptFrame => s.frameCalls

end Sys2Proof.Machine
end

