-- ==== Sys2Proof/Machine/HostProgram.lean ====
section
/-! DEFINITION. The host-side notation of spec R66, each line as the bus accesses it stands for. -/

namespace Sys2Proof.Machine

/-- `wr32 ofs, v`. -/
def hostWr32 (ofs : Nat) (v : Word) : List HostEvent := [.write .w32 ofs v]

/-- `wr16 ofs, v`. -/
def hostWr16 (ofs : Nat) (v : BitVec 16) : List HostEvent := [.write .w16 ofs (v.setWidth 32)]

/-- `wr8 ofs, v`. -/
def hostWr8 (ofs : Nat) (v : Byte) : List HostEvent := [.write .w8 ofs (v.setWidth 32)]

/-- `rd32 ofs`. -/
def hostRd32 (ofs : Nat) : List HostEvent := [.read .w32 ofs]

/-- `cmd MNEMONIC`, and `cmd DERIVE sel`. -/
def hostCmd (i : Instr) : List HostEvent := hostWr32 (Reg.offset .cmd) (encodeWord i)

/-- `wbytes ofs, b0 … bn-1`. -/
def hostWBytes : Nat → Bytes → List HostEvent
  | _, [] => []
  | ofs, b :: rest => hostWr8 ofs b ++ hostWBytes (ofs + 1) rest

/-- `setkey k0 … k15`. -/
def hostSetKey (k : Block) : List HostEvent := hostWBytes (ArrayReg.base .key) k.toList

/-- `wait`, in the schedule where the engine takes its turn after `polls` reads of STATUS: the next read
is the last (spec R66, R157). -/
def hostWait (polls : Nat) : List HostEvent :=
  List.replicate polls (.read .w32 (Reg.offset .status)) ++ [.engine, .read .w32 (Reg.offset .status)]

/-- `clrdone`. -/
def hostClrDone : List HostEvent := hostWr32 (Reg.offset .status) 0x00000002

/-- `clrsticky`. -/
def hostClrSticky : List HostEvent := hostWr32 (Reg.offset .status) 0x000B0000

/-- `run MNEMONIC [sel]`. -/
def hostRun (i : Instr) (polls : Nat) : List HostEvent := hostCmd i ++ hostWait polls

end Sys2Proof.Machine
end

