-- ==== Sys2Proof/Safety.lean ====
section
/-! DEFINITION. What counts as a safe state and a safe run: the invariant of the tables, the buffers and
the status register (spec R5, R24, R32, R33, R37, R115, R138, R139, R145), an agenda that stays inside the
window, and the host's obligation that a command reads only written DBUF bytes (spec R160). -/

namespace Sys2Proof.Machine

/-- Two flow-cache entries name different flows (spec R33). -/
abbrev FlowEntry.differs (x y : FlowEntry) : Prop := ¬ (x.src = y.src ∧ x.kid = y.kid)

/-- What every reachable state satisfies. -/
structure State.Inv (s : State) : Prop where
  /-- At most KR_SLOTS keys (spec R32, R5). -/
  ringBound : s.ring.length ≤ Config.krSlots
  /-- At most FC_SLOTS flows (spec R33, R5). -/
  cacheBound : s.cache.length ≤ Config.fcSlots
  /-- Every valid flow-cache entry names a valid key-ring slot (spec R115). -/
  cacheSlots : ∀ e ∈ s.cache, e.slot.toNat < s.ring.length
  /-- No two valid flow-cache entries share a flow (spec R33, R115). -/
  flowsDistinct : s.cache.Pairwise FlowEntry.differs
  /-- DBUF is in canonical form. -/
  dbufWf : Memory.wf Config.dbufSize s.dbuf
  /-- OBUF is in canonical form. -/
  obufWf : Memory.wf Config.obufSize s.obuf
  /-- While a command is pending DONE is 0 (spec R135, R145). -/
  busyNotDone : s.busy = true → s.done = false
  /-- DETAIL is one the result may carry (spec R139). -/
  detailOk : s.result.detailLegal s.detail = true
  /-- OUT_LEN counts bytes of OBUF (spec R24). -/
  outLenBound : s.outLen.toNat ≤ Config.obufSize
  /-- TRIED is at most 1 + KR_SLOTS (spec R113, R131). -/
  triedBound : s.resultInfo.tried.toNat ≤ 1 + Config.krSlots

/-- The offset of an event lies in the window. -/
def HostEvent.inWindow : HostEvent → Bool
  | .read _ ofs => ofs < windowSize
  | .write _ ofs _ => ofs < windowSize
  | .reset => true
  | .engine => true

/-- Every access on the agenda lies in the window: no step of the run faults. -/
abbrev State.agendaInWindow (s : State) : Prop := ∀ e ∈ s.agenda, HostEvent.inWindow e = true

/-- The host has written every DBUF byte of a range since reset. -/
abbrev State.written (s : State) (ofs n : Nat) : Prop := ∀ i < n, (Memory.read s.dbuf (ofs + i)).isSome = true

/-- The host's obligation for a command: every DBUF byte it reads has been written (spec R160). -/
def State.inputWritten (s : State) : Instr → Prop
  | .hash => s.written s.hashOfs.toNat s.hashLen.toNat
  | .ccmDec | .ccmEnc | .decryptFrame => s.written s.frameOfs.toNat (s.aadLen.toNat + s.payloadLen.toNat)
  | .nop | .ecbEnc | .nonceBuild | .derive _ | .krLoad | .krClear | .krRead | .fcRemember => True

/-- The end of a run of a host program (spec R163): nothing left to do and no command pending. -/
def State.runEnded (s : State) : Bool := s.agenda.isEmpty && !s.busy

end Sys2Proof.Machine
end

