-- ==== Sys2Proof/Certificates/Slice0/Obligations.lean ====
section
/-! DEFINITION. The statements for the provers. Each says which rules of spec/ it formalises. -/

open Sys2Proof Sys2Proof.Machine

namespace Sys2Proof.Spec

/-! Words the statements share: the spec's own indices, tables and conditions, written out. -/

/-- Byte r of a column (spec R70). -/
def row (w : Column) (r : Nat) : Byte := [w.r0, w.r1, w.r2, w.r3].getD r 0

/-- s[r][c] (spec R70). -/
def cell (s : AesState) (r c : Nat) : Byte := row ([s.c0, s.c1, s.c2, s.c3].getD c ⟨0, 0, 0, 0⟩) r

/-- The key words w[0], w[1], … of a key, from its round keys (spec R74). -/
def keyWords (k : Block) : List Column :=
  (loadState k :: roundKeys k).flatMap fun rk => [rk.c0, rk.c1, rk.c2, rk.c3]

/-- The 32-bit words a host may write and read back, with their writable bits (spec R10, R14, R16, R19, R22, R30). -/
def writableWords : List (Nat × Word) :=
  [ (0x008, 0x00000107), (0x010, 0x000000FF), (0x014, 0xFFFFFFFF), (0x018, 0xFFFFFFFF), (0x01C, 0xFFFFFFFF),
    (0x020, 0x0000FF03), (0x024, 0xFFFFFFFF), (0x028, 0xFFFFFFFF), (0x02C, 0xFFFFFFFF), (0x030, 0xFFFFFFFF),
    (0x034, 0x000000FF), (0x038, 0xFFFFFFFF), (0x03C, 0xFFFFFFFF), (0x048, 0x0000FF07), (0x04C, 0xFFFFFFFF),
    (0x050, 0xFFFFFFFF), (0x060, 0xFFFFFFFF), (0x064, 0xFFFFFFFF), (0x068, 0xFFFFFFFF), (0x06C, 0xFFFFFFFF),
    (0x070, 0xFFFFFFFF), (0x074, 0xFFFFFFFF), (0x078, 0xFFFFFFFF), (0x07C, 0xFFFFFFFF), (0x090, 0xFFFFFFFF),
    (0x094, 0xFFFFFFFF), (0x098, 0xFFFFFFFF), (0x09C, 0x000000FF) ]

/-- A field bit standing alone in a register word. -/
def bitAt (b : Bool) (k : Nat) : Word := if b then 1#32 <<< k else 0

/-- What each 32-bit register reads, its fields at the bits the rules give them; the two counts stand in `ReadsHaveNoSideEffects`
itself (spec R10 to R24, R29 to R31). -/
def registerWords (s : State) : List (Nat × Word) :=
  [ (0x000, 0), (0x004, s.statusWord),
    (0x008, s.config.decodeLevel.setWidth 32 ||| bitAt s.config.ie 8),
    (0x00C, Config.coreId), (0x010, s.secCtrl.setWidth 32), (0x014, s.frameCnt), (0x018, s.srcLo), (0x01C, s.srcHi),
    (0x020, bitAt s.hdrFlags.srcValid 0 ||| bitAt s.hdrFlags.ksnValid 1 ||| s.hdrFlags.keySeq.setWidth 32 <<< 8),
    (0x024, s.frameOfs), (0x028, s.aadLen), (0x02C, s.payloadLen), (0x030, s.ctrlOfs), (0x034, s.micLen.setWidth 32),
    (0x038, s.hashOfs), (0x03C, s.hashLen), (0x040, s.outLen),
    (0x048, s.krArg.cls.setWidth 32 ||| bitAt s.krArg.origin 2 ||| s.krArg.slot.setWidth 32 <<< 8),
    (0x04C, s.krProv), (0x050, s.krLabel),
    (0x054, s.resultInfo.slot.setWidth 32 ||| bitAt s.resultInfo.slotValid 8 ||| bitAt s.resultInfo.fromCache 9
      ||| s.resultInfo.tried.setWidth 32 <<< 16),
    (0x0D0, bitAt s.rdMeta.valid 0 ||| s.rdMeta.cls.setWidth 32 <<< 1 ||| bitAt s.rdMeta.origin 3),
    (0x0D4, s.rdProv), (0x0D8, s.rdLabel) ]

/-- The base offset and the bytes of each array (spec R10, R25 to R28, R31). -/
def arrayBytesAt (s : State) : List (Nat × Bytes) :=
  [ (0x060, s.key.toList), (0x070, s.blkIn.toList), (0x080, s.blkOut.toList), (0x090, s.nonce.toList),
    (0x0A0, s.digest.toList), (0x0C0, s.rdKey.toList) ]

/-- The state after a 32-bit write of `v` at the offset of each read-write register: its fields take the bits the rules
give them, and nothing else changes (spec R10, R14, R16 to R23, R30). -/
def registerWrites (s : State) (v : Word) : List (Nat × State) :=
  [ (0x008, { s with config := { decodeLevel := v.extractLsb' 0 3, ie := v.getLsbD 8 } }),
    (0x010, { s with secCtrl := v.extractLsb' 0 8 }),
    (0x014, { s with frameCnt := v }), (0x018, { s with srcLo := v }), (0x01C, { s with srcHi := v }),
    (0x020, { s with hdrFlags :=
      { srcValid := v.getLsbD 0, ksnValid := v.getLsbD 1, keySeq := v.extractLsb' 8 8 } }),
    (0x024, { s with frameOfs := v }), (0x028, { s with aadLen := v }), (0x02C, { s with payloadLen := v }),
    (0x030, { s with ctrlOfs := v }), (0x034, { s with micLen := v.extractLsb' 0 8 }),
    (0x038, { s with hashOfs := v }), (0x03C, { s with hashLen := v }),
    (0x048, { s with krArg := { cls := v.extractLsb' 0 2, origin := v.getLsbD 2, slot := v.extractLsb' 8 8 } }),
    (0x04C, { s with krProv := v }), (0x050, { s with krLabel := v }) ]

/-- The byte at offset `o` after an aligned write of `v` at `ofs`: the byte of `v` that falls on it, least significant
first, or the byte it was (spec R43, R44). -/
def overlaid (w : Width) (ofs : Nat) (v : Word) (o : Nat) (old : Byte) : Byte :=
  if ofs ≤ o ∧ o < ofs + w.bytes then v.extractLsb' (8 * (o - ofs)) 8 else old

/-- A write of `v` at `ofs` covers bit `b` of STATUS and carries 1 there (spec R13, R43, R44). -/
def writesOne (w : Width) (ofs : Nat) (v : Word) (b : Nat) : Bool :=
  decide (8 * (ofs - 0x004) ≤ b ∧ b < 8 * (ofs - 0x004) + 8 * w.bytes) && v.getLsbD (b - 8 * (ofs - 0x004))

/-- The next step asserts the reset input (spec R153). -/
def resetsNext (s : State) : Prop := s.agenda.head? = some .reset

/-- The next step completes command `i` (spec R136); with nothing on the agenda the engine has its turn (log 1). -/
def completesNext (s : State) (i : Instr) : Prop :=
  (s.agenda = [] ∨ s.agenda.head? = some .engine) ∧ ∃ w, s.pending = some w ∧ decodeWord w = .ok i

/-- The offsets the map gives to read-only registers, OBUF and reserved space (spec R10). -/
def readOnlyOffset (ofs : Nat) : Prop :=
  (0x00C ≤ ofs ∧ ofs < 0x010) ∨ (0x040 ≤ ofs ∧ ofs < 0x048) ∨ (0x054 ≤ ofs ∧ ofs < 0x060)
    ∨ (0x080 ≤ ofs ∧ ofs < 0x090) ∨ (0x09D ≤ ofs ∧ ofs < 0x1000)
    ∨ (0x1000 + Config.dbufSize ≤ ofs ∧ ofs < 0x3000)

/-- None of the checks of spec R118 fails. -/
def frameChecksPass (s : State) : Prop :=
  s.level.micLen ≤ s.payloadLen.toNat
    ∧ (s.level.encrypts = true → 1 + (s.payloadLen.toNat - s.level.micLen + 15) / 16 ≤ 2 ^ 16)
    ∧ (0 < s.level.micLen →
        if s.level.encrypts then s.aadLen.toNat ≤ 0xFFFF ∧ s.payloadLen.toNat - s.level.micLen ≤ 0xFFFF
        else s.aadLen.toNat + (s.payloadLen.toNat - s.level.micLen) ≤ 0xFFFF)
    ∧ s.frameOfs.toNat + s.aadLen.toNat + s.payloadLen.toNat ≤ Config.dbufSize
    ∧ s.payloadLen.toNat - s.level.micLen ≤ Config.obufSize

/-- ct of spec R123: the payload region without its last M bytes. -/
def frameText (s : State) : Bytes :=
  s.dbufRead (s.frameOfs.toNat + s.aadLen.toNat) (s.payloadLen.toNat - s.level.micLen)

/-- AES calls of ccm_decrypt and ccm_encrypt (spec R102). -/
def ccmCallFormula (la lm M : Nat) : Nat :=
  if M = 0 then (lm + 15) / 16
  else (lm + 15) / 16 + 1 + 1 + (if 0 < la then (la + 2 + 15) / 16 else 0) + (lm + 15) / 16

end Sys2Proof.Spec

open Sys2Proof.Spec

/-! ### Encodings -/

/-- Tier 3. Every command's bytes decode back to it, whatever follows them, at every selector (spec R54, R56, R58). -/
def Obligations.DecodeOfEncodeGivesTheCommand : Prop :=
  ∀ (i : Instr) (rest : Bytes), decode (encode i ++ rest) = .ok (i, rest)

/-- R58: decoding is total; a word is the command whose encoding it is when it is legal, else an error (BAD_CMD); every
command is 32 bits long. -/
def Obligations.LegalWordsAreExactlyTheCommands : Prop :=
  (∀ w : Word,
    (∀ i, decodeWord w = .ok i ↔ wellFormedWord w = true ∧ encodeWord i = w)
      ∧ (wellFormedWord w = false → ∃ e, decodeWord w = .error e))
  ∧ ∀ i, (encode i).length = 4

/-- Words written out from the opcode map of R56 and the illegal patterns of R57. -/
def Obligations.WrittenOutWordsDecode : Prop :=
  decodeWord 0x00000000 = .ok .nop ∧ decodeWord 0x00000001 = .ok .ecbEnc ∧ decodeWord 0x00000002 = .ok .nonceBuild
    ∧ decodeWord 0x00000204 = .ok (.derive 0x02) ∧ decodeWord 0x0000FF04 = .ok (.derive 0xFF)
    ∧ decodeWord 0x00000006 = .ok .ccmEnc ∧ decodeWord 0x0000000A = .ok .fcRemember
    ∧ decodeWord 0x0000000B = .ok .decryptFrame
    ∧ decodeWord 0x00000100 = .error .argNonzero ∧ decodeWord 0x0000000C = .error .unknownOpcode
    ∧ decodeWord 0x8000000B = .error .reservedNonzero

/-! ### The schedule, issue and completion -/

/-- R136, R157: on the engine's turn a pending word that decodes to `i` is completed by `exec i`; a turn taken
from the agenda is first removed from it. -/
def Obligations.StepRunsThePendingCommand : Prop :=
  ∀ (s : State) (w : Word) (i : Instr), s.pending = some w → decodeWord w = .ok i →
    (s.agenda = [] → step s = exec i s)
      ∧ (∀ rest, s.agenda = .engine :: rest → step s = exec i { s with agenda := rest })

/-- R140, R57: an illegal word completes with BAD_CMD and DETAIL 0 and changes nothing else. That an empty agenda gives
the engine its turn is the model's schedule (log 1). -/
def Obligations.IllegalWordCompletesWithBadCmd : Prop :=
  ∀ (s : State) (w : Word), s.pending = some w → wellFormedWord w = false →
    (s.agenda = [] → step s = .next { s with result := .badCmd, detail := 0, pending := none, done := true })
      ∧ (∀ rest, s.agenda = .engine :: rest →
          step s = .next { s with agenda := rest, result := .badCmd, detail := 0, pending := none, done := true })

/-- R135, R12: a 32-bit write to CMD while idle fills the latch, sets BUSY and clears DONE, whatever the word; while busy
it is discarded and sets WERR; an 8- or 16-bit write there while idle, aligned or not, issues nothing. That a misaligned
16-bit one sets AERR, as R42 says of every misaligned access although R12 calls it ignored, is the model's reading (log 6). -/
def Obligations.CommandIssue : Prop :=
  ∀ (s : State) (rest : List HostEvent) (w : Word),
    (s.busy = false → s.agenda = .write .w32 0x000 w :: rest →
      step s = .next { s with agenda := rest, pending := some w, done := false })
      ∧ (s.busy = true → s.agenda = .write .w32 0x000 w :: rest →
          step s = .next { s with agenda := rest, werr := true })
      ∧ (∀ ofs < 4, s.busy = false → s.agenda = .write .w8 ofs w :: rest → step s = .next { s with agenda := rest })
      ∧ (∀ ofs < 4, s.busy = false → s.agenda = .write .w16 ofs w :: rest →
          step s = .next { s with agenda := rest, aerr := s.aerr || ofs % 2 == 1 })

/-- R137, R136, R142: every command ends, once: BUSY 0, DONE 1, a DETAIL its RESULT may carry; WERR, AERR and CONFIG are
kept, and FCFULL only rises, only under FC_REMEMBER and DECRYPT_FRAME. -/
def Obligations.EveryCommandEndsInACompletion : Prop :=
  ∀ (i : Instr) (s : State), ∃ t, exec i s = .next t
    ∧ t.busy = false ∧ t.done = true ∧ t.result.detailLegal t.detail = true
    ∧ t.werr = s.werr ∧ t.aerr = s.aerr ∧ t.config = s.config
    ∧ (t.fcfull = s.fcfull ∨ t.fcfull = true ∧ (i = .fcRemember ∨ i = .decryptFrame))

/-- R136 under the fairness of R157: a pending command completes within one step more than the agenda has items, when no
reset and no access outside the window stands on it. -/
def Obligations.PendingCommandCompletesInBoundedSteps : Prop :=
  ∀ s : State, s.busy = true → (∀ e ∈ s.agenda, e ≠ .reset) → s.agendaInWindow →
    ∃ k t, k ≤ s.agenda.length + 1 ∧ Host.Core.run Sys2Proof.core k s = .next t ∧ t.busy = false ∧ t.done = true

/-- R66, R136, R158: `run` from an idle core, for any command and any number of polls before the engine's turn: the run
uses up the agenda, and its last read of STATUS shows BUSY 0 and DONE 1. -/
def Obligations.RunOfACommandSeesItsCompletion : Prop :=
  ∀ (s : State) (i : Instr) (polls : Nat), s.busy = false →
    ∃ t, Host.Core.run Sys2Proof.core (polls + 3) { s with agenda := hostRun i polls } = .next t
      ∧ t.agenda = [] ∧ t.busy = false ∧ t.done = true ∧ t.readData.extractLsb' 0 2 = 0b10#2

/-- R144, R145: DONE rises only when a pending command completes. -/
def Obligations.DoneRisesOnlyByCompletion : Prop :=
  ∀ s t : State, step s = .next t → t.done = true → s.done = true ∨ (s.busy = true ∧ t.busy = false)

/-- R13, R144: the fields of STATUS as a host reads them, IRQ = DONE & CONFIG.IE among them, and the twelve result codes
of R138. -/
def Obligations.StatusWordLayout : Prop :=
  (∀ s : State,
    s.busRead .w32 0x004 = s.statusWord
      ∧ s.statusWord.getLsbD 0 = s.pending.isSome ∧ s.statusWord.getLsbD 1 = s.done
      ∧ s.statusWord.extractLsb' 2 2 = 0 ∧ s.statusWord.extractLsb' 4 4 = s.result.bits
      ∧ s.statusWord.extractLsb' 8 4 = s.detail ∧ s.statusWord.extractLsb' 12 4 = 0
      ∧ s.statusWord.getLsbD 16 = s.werr ∧ s.statusWord.getLsbD 17 = s.fcfull
      ∧ s.statusWord.getLsbD 18 = (s.done && s.config.ie) ∧ s.statusWord.getLsbD 19 = s.aerr
      ∧ s.statusWord.extractLsb' 20 12 = 0)
  ∧ ∀ c : ResultCode, c.bits =
      match c with
      | .ok => 0
      | .authFail => 1
      | .exhausted => 2
      | .structErr => 3
      | .noSrc => 4
      | .passThru => 5
      | .unverified => 6
      | .bounds => 7
      | .badCmd => 8
      | .krFull => 9
      | .badSlot => 10
      | .badMicLen => 11

/-! ### Host accesses -/

/-- R46: while BUSY = 1 every aligned write, of any width at any offset of the window, is discarded and sets WERR. A
misaligned one sets AERR as well (the model's reading of R42 and R46 together, log 6). -/
def Obligations.WriteWhileBusyIsDiscarded : Prop :=
  ∀ (s : State) (w : Width) (ofs : Nat) (v : Word) (rest : List HostEvent),
    s.busy = true → ofs < 0x3000 → s.agenda = .write w ofs v :: rest →
      (ofs % w.bytes = 0 → step s = .next { s with agenda := rest, werr := true })
        ∧ (ofs % w.bytes ≠ 0 → step s = .next { s with agenda := rest, werr := true, aerr := true })

/-- R42: a misaligned write while idle changes nothing but AERR; a misaligned read returns 0 and changes nothing else
but AERR. -/
def Obligations.MisalignedAccessIsDiscarded : Prop :=
  ∀ (s : State) (w : Width) (ofs : Nat) (v : Word) (rest : List HostEvent), ofs % w.bytes ≠ 0 → ofs < 0x3000 →
    (s.busy = false → s.agenda = .write w ofs v :: rest → step s = .next { s with agenda := rest, aerr := true })
      ∧ (s.agenda = .read w ofs :: rest → step s = .next { s with agenda := rest, aerr := true, readData := 0 })

/-- R45, R43: an aligned read changes nothing in the core, returns the bytes it covers, least significant first, and
read again returns the same value. R10 to R33, R37: what stands at each offset: every 32-bit register with its fields, the
two counts, the arrays byte by byte, DBUF and OBUF. That the bus bits above an 8- or 16-bit read are 0 is the model's
choice (log 11); the counts are the lengths of the two tables (log 9), at most their capacities. -/
def Obligations.ReadsHaveNoSideEffects : Prop :=
  (∀ (s : State) (w : Width) (ofs : Nat) (rest : List HostEvent), ofs % w.bytes = 0 → ofs < 0x3000 →
    s.agenda = .read w ofs :: rest →
      ∃ v : Word, step s = .next { s with agenda := rest, readData := v }
        ∧ (∀ k < 4, v.extractLsb' (8 * k) 8 = if k < w.bytes then s.readByte (ofs + k) else 0)
        ∧ ∀ t, step s = .next t → t.busRead w ofs = v)
  ∧ ∀ s : State,
      (∀ p ∈ registerWords s, s.busRead .w32 p.1 = p.2)
      ∧ (s.ring.length ≤ Config.krSlots → (s.busRead .w32 0x044).toNat = s.ring.length)
      ∧ (s.cache.length ≤ Config.fcSlots → (s.busRead .w32 0x058).toNat = s.cache.length)
      ∧ (∀ p ∈ arrayBytesAt s, ∀ i < p.2.length, s.readByte (p.1 + i) = p.2.getD i 0)
      ∧ (∀ o < Config.dbufSize, s.readByte (0x1000 + o) = s.dbufByte o)
      ∧ ∀ o < Config.obufSize, s.readByte (0x2000 + o) = s.obufByte o

/-- R43, R44, R11: a 32-bit write while idle to a read-write word reads back what was written, reserved bits as 0, and the
registers of R10 take it in the fields their rules give; an aligned write of any width reads back, byte by byte, in every
read-write byte it covers; in KEY, BLK_IN, NONCE and DBUF it replaces the bytes it covers, least significant first, and
changes nothing else. That bus bits above an 8- or 16-bit write are ignored is the model's choice (log 11). -/
def Obligations.WritesReadBack : Prop :=
  ∀ (s : State) (v : Word) (rest : List HostEvent), s.busy = false →
    (∀ p ∈ writableWords, s.agenda = .write .w32 p.1 v :: rest →
      ∃ t, step s = .next t ∧ t.busRead .w32 p.1 = v &&& p.2)
    ∧ (∀ o < Config.dbufSize, s.agenda = .write .w8 (0x1000 + o) v :: rest →
      ∃ t, step s = .next t ∧ t.dbufByte o = v.extractLsb' 0 8 ∧ t.readByte (0x1000 + o) = v.extractLsb' 0 8)
    ∧ (∀ p ∈ registerWrites s v, s.agenda = .write .w32 p.1 v :: rest → step s = .next { p.2 with agenda := rest })
    ∧ ∀ (w : Width) (ofs : Nat), ofs % w.bytes = 0 → s.agenda = .write w ofs v :: rest →
        (∀ p ∈ writableWords, ∀ k < w.bytes, p.1 ≤ ofs + k → ofs + k < p.1 + 4 →
          ∃ t, step s = .next t ∧ t.readByte (ofs + k)
            = v.extractLsb' (8 * k) 8 &&& p.2.extractLsb' (8 * (ofs + k - p.1)) 8)
        ∧ (0x060 ≤ ofs → ofs < 0x070 → ∃ K : Block, step s = .next { s with agenda := rest, key := K }
          ∧ ∀ j < 16, K.toList.getD j 0 = overlaid w ofs v (0x060 + j) (s.key.toList.getD j 0))
        ∧ (0x070 ≤ ofs → ofs < 0x080 → ∃ B : Block, step s = .next { s with agenda := rest, blkIn := B }
          ∧ ∀ j < 16, B.toList.getD j 0 = overlaid w ofs v (0x070 + j) (s.blkIn.toList.getD j 0))
        ∧ (0x090 ≤ ofs → ofs < 0x09D → ∃ N : Nonce, step s = .next { s with agenda := rest, nonce := N }
          ∧ ∀ j < 13, N.toList.getD j 0 = overlaid w ofs v (0x090 + j) (s.nonce.toList.getD j 0))
        ∧ (0x1000 ≤ ofs → ofs < 0x1000 + Config.dbufSize → ∃ m : Memory,
          step s = .next { s with agenda := rest, dbuf := m }
          ∧ ∀ o, ({ s with agenda := rest, dbuf := m } : State).dbufByte o
              = overlaid w ofs v (0x1000 + o) (s.dbufByte o))

/-- R44: an aligned write while idle leaves every byte it does not cover as it reads. The one exception is STATUS byte 2
(offset 0x006): its IRQ bit is a function of DONE and CONFIG.IE (R144). A 32-bit write to CMD issues (R135). -/
def Obligations.WriteChangesOnlyCoveredBytes : Prop :=
  ∀ (s : State) (w : Width) (ofs : Nat) (v : Word) (rest : List HostEvent) (o : Nat), s.busy = false →
    ofs % w.bytes = 0 → ofs < 0x3000 → ¬ (w = .w32 ∧ ofs = 0) → (o < ofs ∨ ofs + w.bytes ≤ o) → o ≠ 0x006 →
    s.agenda = .write w ofs v :: rest → ∃ t, step s = .next t ∧ t.readByte o = s.readByte o

/-- R11: an aligned write while idle to read-only registers, OBUF or reserved offsets changes nothing and sets no error
flag; a reserved offset reads 0. -/
def Obligations.ReadOnlyAndReservedIgnoreWrites : Prop :=
  (∀ (s : State) (w : Width) (ofs : Nat) (v : Word) (rest : List HostEvent), s.busy = false →
    ofs % w.bytes = 0 → (∀ k < w.bytes, readOnlyOffset (ofs + k)) → s.agenda = .write w ofs v :: rest →
      step s = .next { s with agenda := rest })
  ∧ ∀ (s : State) (ofs : Nat),
      ((0x05C ≤ ofs ∧ ofs < 0x060) ∨ (0x09D ≤ ofs ∧ ofs < 0x0A0) ∨ (0x0B0 ≤ ofs ∧ ofs < 0x0C0)
        ∨ (0x0DC ≤ ofs ∧ ofs < 0x1000) ∨ (0x1000 + Config.dbufSize ≤ ofs ∧ ofs < 0x2000)
        ∨ (0x2000 + Config.obufSize ≤ ofs ∧ ofs < 0x3000)) →
      s.readByte ofs = 0

/-- R13, R44: an aligned write of any width at any offset of STATUS while idle clears the W1C bits (DONE 1, WERR 16, FCFULL
17, AERR 19) that it covers and writes as 1, and changes nothing else. (Bus bits above the access are ignored: log 11.) -/
def Obligations.StatusWriteClearsOnes : Prop :=
  ∀ (s : State) (w : Width) (ofs : Nat) (v : Word) (rest : List HostEvent), s.busy = false →
    ofs % w.bytes = 0 → 0x004 ≤ ofs → ofs < 0x008 → s.agenda = .write w ofs v :: rest →
      step s = .next { s with
        agenda := rest
        done := s.done && !writesOne w ofs v 1
        werr := s.werr && !writesOne w ofs v 16
        fcfull := s.fcfull && !writesOne w ofs v 17
        aerr := s.aerr && !writesOne w ofs v 19 }

/-- R10, R53: the window is the 0x3000 bytes at CORE_BASE; the model stops on an offset outside it (log 5). -/
def Obligations.WindowPlacement : Prop :=
  (∀ ofs < 0x3000, windowOffset (Config.coreBase + ofs) = some ofs)
    ∧ (∀ addr, addr < Config.coreBase ∨ Config.coreBase + 0x3000 ≤ addr → windowOffset addr = none)
    ∧ ∀ (s : State) (w : Width) (ofs : Nat) (v : Word) (rest : List HostEvent), 0x3000 ≤ ofs →
        (s.agenda = .read w ofs :: rest → step s = .fault (.outsideWindow ofs))
          ∧ (s.agenda = .write w ofs v :: rest → step s = .fault (.outsideWindow ofs))

/-! ### Reset and invariants -/

/-- R154, R153, R155: asserting reset in any state, busy or not, leaves every register at its reset value, the latch empty,
the tables empty, and every buffer byte an unwritten draw (R40); so does State.reset. That the draws are those of the next
reset number, and that the host's agenda goes on, is the model's form (log 8). -/
def Obligations.ResetValues : Prop :=
  ∀ (s : State) (rest : List HostEvent), s.agenda = .reset :: rest →
    ∃ t, step s = .next t ∧ t.epoch = s.epoch + 1 ∧ t.agenda = rest ∧ ∀ u, u = t ∨ u = State.reset →
      u.pending = none
        ∧ (∀ r : Reg, u.regWord r =
            match r with
            | .config => 0x00000005
            | .ctrlOfs => 0xFFFFFFFF
            | .id => Config.coreId
            | _ => 0)
        ∧ (∀ (a : ArrayReg), ∀ b ∈ u.arrayBytes a, b = 0)
        ∧ u.ring = [] ∧ u.cache = []
        ∧ ∀ o, u.dbufByte o = Config.dbufDraw u.epoch o ∧ u.obufByte o = Config.obufDraw u.epoch o

/-- The invariant of Safety.lean holds at reset. -/
def Obligations.InvariantHoldsAtReset : Prop := State.reset.Inv

/-- Tier 3. R115, R32, R33, R139, R145 and the buffers' form, as one invariant that every step keeps, from every state
that meets it and under every schedule. -/
def Obligations.EveryStepKeepsTheInvariant : Prop :=
  ∀ s t : State, s.Inv → step s = .next t → t.Inv

/-- R143, R136: with the agenda inside the window no step faults or is refused. -/
def Obligations.StepAlwaysGoesOnInsideTheWindow : Prop :=
  ∀ s : State, s.agendaInWindow → ∃ t, step s = .next t ∧ t.agendaInWindow

/-- R32, R33: in any step, host accesses among them, the key ring and the flow cache are emptied exactly by reset and by the
completion of KR_CLEAR. Otherwise the ring is kept or, when KR_LOAD completes, one entry is added at its end; the cache is
kept or, when FC_REMEMBER or DECRYPT_FRAME completes, written by one remember_success. (Which steps complete: log 1.) -/
def Obligations.KeyRingIsAppendOnly : Prop :=
  ∀ s t : State, step s = .next t →
    (resetsNext s ∨ completesNext s .krClear → t.ring = [] ∧ t.cache = [])
    ∧ (¬ resetsNext s → ¬ completesNext s .krClear →
        (t.ring = s.ring ∨ completesNext s .krLoad ∧ ∃ e, t.ring = s.ring ++ [e])
        ∧ (t.cache = s.cache ∨ (completesNext s .fcRemember ∨ completesNext s .decryptFrame)
            ∧ ∃ src kid slot, t.cache = (s.rememberSuccess src kid slot).cache))

/-! ### Frames over all commands -/

/-- R16, R21, R129: no command writes an operand register, DBUF, or the model's own fields. Only NONCE_BUILD writes NONCE. -/
def Obligations.CommandsNeverWriteTheirOperands : Prop :=
  ∀ (i : Instr) (s t : State), exec i s = .next t →
    t.config = s.config ∧ t.secCtrl = s.secCtrl ∧ t.frameCnt = s.frameCnt ∧ t.srcLo = s.srcLo ∧ t.srcHi = s.srcHi
      ∧ t.hdrFlags = s.hdrFlags ∧ t.frameOfs = s.frameOfs ∧ t.aadLen = s.aadLen ∧ t.payloadLen = s.payloadLen
      ∧ t.ctrlOfs = s.ctrlOfs ∧ t.micLen = s.micLen ∧ t.hashOfs = s.hashOfs ∧ t.hashLen = s.hashLen
      ∧ t.krArg = s.krArg ∧ t.krProv = s.krProv ∧ t.krLabel = s.krLabel ∧ t.key = s.key ∧ t.blkIn = s.blkIn
      ∧ t.dbuf = s.dbuf ∧ (∀ a, t.dbufByte a = s.dbufByte a) ∧ t.agenda = s.agenda ∧ t.epoch = s.epoch
      ∧ t.readData = s.readData ∧ (i ≠ .nonceBuild → t.nonce = s.nonce)

/-- R24 to R31, R37: each result register, the tables and OBUF have the writers their rules name; every other command leaves
them, and every byte of OBUF, as they were. -/
def Obligations.EachResultHasItsWriters : Prop :=
  ∀ (i : Instr) (s t : State), exec i s = .next t →
    (i ≠ .ecbEnc → t.blkOut = s.blkOut)
      ∧ (i ≠ .hash → (∀ sel, i ≠ .derive sel) → t.digest = s.digest)
      ∧ (i ≠ .krRead → t.rdKey = s.rdKey ∧ t.rdMeta = s.rdMeta ∧ t.rdProv = s.rdProv ∧ t.rdLabel = s.rdLabel)
      ∧ (i ≠ .krLoad → i ≠ .krClear → t.ring = s.ring)
      ∧ (i ≠ .krClear → i ≠ .fcRemember → i ≠ .decryptFrame → t.cache = s.cache)
      ∧ (i ≠ .krLoad → i ≠ .decryptFrame → t.resultInfo = s.resultInfo)
      ∧ (i ≠ .ccmDec → i ≠ .ccmEnc → i ≠ .decryptFrame →
          t.outLen = s.outLen ∧ t.obuf = s.obuf ∧ ∀ a, t.obufByte a = s.obufByte a)

/-- R39, R24: CCM_DEC, CCM_ENC and DECRYPT_FRAME store from OBUF offset 0 the OUT_LEN bytes of their output: every OBUF byte
at or above OUT_LEN reads as before. A command that ends at one of its checks stores nothing and keeps OUT_LEN. -/
def Obligations.OutputBytesLieBelowOutLen : Prop :=
  ∀ (i : Instr) (s t : State), (i = .ccmDec ∨ i = .ccmEnc ∨ i = .decryptFrame) → exec i s = .next t →
    (∀ a, t.outLen.toNat ≤ a → t.obufByte a = s.obufByte a)
      ∧ (t.result = .badMicLen ∨ t.result = .structErr ∨ t.result = .bounds →
          t.outLen = s.outLen ∧ ∀ a, t.obufByte a = s.obufByte a)
      ∧ (t.result = .authFail ∨ t.result = .exhausted → t.outLen = 0 ∧ ∀ a, t.obufByte a = s.obufByte a)

/-! ### NOP and BlockCipher -/

/-- R130: NOP changes RESULT, DETAIL, BUSY and DONE alone. -/
def Obligations.NopEffect : Prop :=
  decodeWord 0x00000000 = .ok .nop
    ∧ ∀ s : State, exec .nop s = .next { s with result := .ok, detail := 0, pending := none, done := true }

/-- R67: ECB_ENC puts AES(KEY, BLK_IN) in BLK_OUT. -/
def Obligations.EcbEncEffect : Prop :=
  decodeWord 0x00000001 = .ok .ecbEnc
    ∧ ∀ s : State, exec .ecbEnc s
        = .next { s with blkOut := aes s.key s.blkIn, result := .ok, detail := 0, pending := none, done := true }

/-- R71, R72: the S-box table is the affine map of the field inverse, and 2 and 3 multiply as R71 says. -/
def Obligations.SboxIsTheAffineMapOfTheInverse : Prop :=
  (∀ x : Byte, x ≠ 0 → ∃ y, gfMul x y = 1 ∧ sbox x = sboxAffine y ^^^ 0x63)
    ∧ sbox 0 = sboxAffine 0 ^^^ 0x63
    ∧ ∀ a : Byte, gfMul a 0x02 = xtime a ∧ gfMul a 0x03 = xtime a ^^^ a

/-- R73: the four round transformations in the indices of the rule. -/
def Obligations.RoundTransformationsByIndex : Prop :=
  ∀ (s k : AesState) (c : Nat), c < 4 →
    (∀ r < 4, cell s.subBytes r c = sbox (cell s r c)
      ∧ cell s.shiftRows r c = cell s r ((c + r) % 4)
      ∧ cell (s.addRoundKey k) r c = cell s r c ^^^ cell k r c)
    ∧ cell s.mixColumns 0 c = gfMul (cell s 0 c) 2 ^^^ gfMul (cell s 1 c) 3 ^^^ cell s 2 c ^^^ cell s 3 c
    ∧ cell s.mixColumns 1 c = cell s 0 c ^^^ gfMul (cell s 1 c) 2 ^^^ gfMul (cell s 2 c) 3 ^^^ cell s 3 c
    ∧ cell s.mixColumns 2 c = cell s 0 c ^^^ cell s 1 c ^^^ gfMul (cell s 2 c) 2 ^^^ gfMul (cell s 3 c) 3
    ∧ cell s.mixColumns 3 c = gfMul (cell s 0 c) 3 ^^^ cell s 1 c ^^^ cell s 2 c ^^^ gfMul (cell s 3 c) 2

/-- R74: the 44 key words, by the recurrence of the rule. -/
def Obligations.KeyExpansionRecurrence : Prop :=
  ∀ k : Block, (keyWords k).length = 44
    ∧ (∀ i < 4, ∀ b < 4, row ((keyWords k).getD i ⟨0, 0, 0, 0⟩) b = k.toList.getD (4 * i + b) 0)
    ∧ ∀ i, 4 ≤ i → i < 44 → ∀ b < 4,
        row ((keyWords k).getD i ⟨0, 0, 0, 0⟩) b
          = row ((keyWords k).getD (i - 4) ⟨0, 0, 0, 0⟩) b
            ^^^ (if i % 4 = 0 then
                  sbox (row ((keyWords k).getD (i - 1) ⟨0, 0, 0, 0⟩) ((b + 1) % 4))
                    ^^^ (if b = 0 then
                          [0x01, 0x02, 0x04, 0x08, 0x10, 0x20, 0x40, 0x80, 0x1B, 0x36].getD (i / 4 - 1) 0
                        else 0)
                else row ((keyWords k).getD (i - 1) ⟨0, 0, 0, 0⟩) b)

/-- R75, R70: AES is the initial AddRoundKey, nine full rounds and a final round without MixColumns, on the columns of
the block; load and unload follow s[r][c] = b[r + 4c]. -/
def Obligations.AesIsTheTenRounds : Prop :=
  (∀ k b : Block,
    aes k b =
      unloadState (((List.range 9).foldl
          (fun st j => st.subBytes.shiftRows.mixColumns.addRoundKey ((roundKeys k).getD j (loadState k)))
          ((loadState b).addRoundKey (loadState k))).subBytes.shiftRows.addRoundKey
        ((roundKeys k).getD 9 (loadState k))))
  ∧ (∀ (b : Block) (r c : Nat), r < 4 → c < 4 → cell (loadState b) r c = b.toList.getD (r + 4 * c) 0)
  ∧ ∀ (s : AesState) (r c : Nat), r < 4 → c < 4 → (unloadState s).toList.getD (r + 4 * c) 0 = cell s r c

/-! ### Nonce, hash and derivation -/

/-- R76, R77, R78: the effective control byte, key id and level. R60, R61: the eight level numbers, each level's M and ENC,
and the four key-id codes, both ways; the spec marks these numbers as its own, from general knowledge (log 17). -/
def Obligations.EffectiveControlByte : Prop :=
  (∀ s : State, s.effCtrl.extractLsb' 0 3 = s.config.decodeLevel
      ∧ s.effCtrl.extractLsb' 3 5 = s.secCtrl.extractLsb' 3 5
      ∧ s.frameKeyId.bits = s.secCtrl.extractLsb' 3 2
      ∧ s.level = SecurityLevel.ofBits s.config.decodeLevel)
    ∧ (∀ b : BitVec 3, (SecurityLevel.ofBits b).encrypts = b.getLsbD 2
        ∧ (SecurityLevel.ofBits b).micLen = [0, 4, 8, 16, 0, 4, 8, 16].getD b.toNat 0
        ∧ SecurityLevel.ofBits b
          = [.none, .mic32, .mic64, .mic128, .enc, .encMic32, .encMic64, .encMic128].getD b.toNat .none)
    ∧ KeyId.ofBits 0 = .link ∧ KeyId.ofBits 1 = .network ∧ KeyId.ofBits 2 = .transport ∧ KeyId.ofBits 3 = .load
    ∧ ∀ b : BitVec 2, (KeyId.ofBits b).bits = b

/-- R80, R79: NONCE_BUILD, byte by byte; NOSRC without a source address. -/
def Obligations.NonceBuildEffect : Prop :=
  decodeWord 0x00000002 = .ok .nonceBuild
    ∧ ∀ s : State,
      (s.hdrFlags.srcValid = false → exec .nonceBuild s
        = .next { s with result := .noSrc, detail := 0, pending := none, done := true })
      ∧ (s.hdrFlags.srcValid = true → ∃ N : Nonce,
          exec .nonceBuild s = .next { s with nonce := N, result := .ok, detail := 0, pending := none, done := true }
          ∧ (∀ i < 8, N.toList.getD i 0 = (s.srcHi ++ s.srcLo).extractLsb' (8 * i) 8)
          ∧ (∀ i < 4, N.toList.getD (8 + i) 0 = s.frameCnt.extractLsb' (8 * i) 8)
          ∧ N.toList.getD 12 0 = (s.secCtrl &&& 0xF8#8) ||| s.config.decodeLevel.setWidth 8)

/-- R82, R84, for the inputs R83 gives the hash, up to 8191 bytes: the padding, its least number of zero bytes and the padded
length; and the hash as its chain: H starts at zero, and each 16-byte chunk M of the padded input, byte j of chunk i
being its byte 16i + j, takes H to AES(H, M) xor M. -/
def Obligations.HashPadding : Prop :=
  ∀ x : Bytes, x.length ≤ 8191 →
    (∃ z, (x.length + 1 + z + 2) % 16 = 0 ∧ (∀ z' < z, (x.length + 1 + z' + 2) % 16 ≠ 0)
      ∧ mmoPad x = x ++ [0x80] ++ List.replicate z 0
          ++ [BitVec.ofNat 8 (8 * x.length / 256), BitVec.ofNat 8 (8 * x.length)])
    ∧ (mmoPad x).length % 16 = 0 ∧ x.length + 3 ≤ (mmoPad x).length ∧ (mmoPad x).length < x.length + 3 + 16
    ∧ ∃ H : Nat → Block, H 0 = Vector.replicate 16 0
        ∧ (∀ i < (mmoPad x).length / 16, ∃ M : Block,
            (∀ j < 16, M.toList.getD j 0 = (mmoPad x).getD (16 * i + j) 0)
            ∧ ∀ j < 16, (H (i + 1)).toList.getD j 0 = (aes (H i) M).toList.getD j 0 ^^^ M.toList.getD j 0)
        ∧ mmoHash x = H ((mmoPad x).length / 16)

/-- R85, R83: HASH: its two checks in order, on unbounded arithmetic, and the digest. -/
def Obligations.HashEffect : Prop :=
  decodeWord 0x00000003 = .ok .hash
    ∧ ∀ s : State, exec .hash s = .next
        (if 0xFFFF < 8 * s.hashLen.toNat then
          { s with result := .structErr, detail := 4, pending := none, done := true }
        else if Config.dbufSize < s.hashOfs.toNat + s.hashLen.toNat then
          { s with result := .bounds, detail := 1, pending := none, done := true }
        else
          { s with
            digest := mmoHash (s.dbufRead s.hashOfs.toNat s.hashLen.toNat)
            result := .ok, detail := 0, pending := none, done := true })

/-- R88, R86, R65: DERIVE at every selector. -/
def Obligations.DeriveEffect : Prop :=
  (∀ sel : Byte, decodeWord (sel.setWidth 32 <<< 8 ||| 0x04#32) = .ok (.derive sel))
    ∧ ∀ (sel : Byte) (s : State), exec (.derive sel) s
        = .next { s with
            digest := mmoHash ((s.key.toList.map (· ^^^ 0x5C#8))
              ++ (mmoHash ((s.key.toList.map (· ^^^ 0x36#8)) ++ [sel])).toList)
            result := .ok, detail := 0, pending := none, done := true }

/-! ### CCM* -/

/-- R104, R103: CCM_DEC: its checks in order on unbounded arithmetic, then OK with the plaintext in OBUF, or AUTH_FAIL. -/
def Obligations.CcmDecEffect : Prop :=
  decodeWord 0x00000005 = .ok .ccmDec
    ∧ ∀ (s : State) (M la lp : Nat), M = s.micLen.toNat → la = s.aadLen.toNat → lp = s.payloadLen.toNat →
      exec .ccmDec s = .next
        (if ¬ (M = 0 ∨ M = 4 ∨ M = 8 ∨ M = 16) then
          { s with result := .badMicLen, detail := 0, pending := none, done := true }
        else if lp < M then { s with result := .structErr, detail := 1, pending := none, done := true }
        else if 2 ^ 16 < 1 + (lp - M + 15) / 16 then
          { s with result := .structErr, detail := 2, pending := none, done := true }
        else if 0 < M ∧ (0xFFFF < la ∨ 0xFFFF < lp - M) then
          { s with result := .structErr, detail := 3, pending := none, done := true }
        else if Config.dbufSize < s.frameOfs.toNat + la + lp then
          { s with result := .bounds, detail := 1, pending := none, done := true }
        else if Config.obufSize < lp - M then
          { s with result := .bounds, detail := 2, pending := none, done := true }
        else
          match ccmDecrypt s.key s.nonce (s.dbufRead s.frameOfs.toNat la)
              (s.dbufRead (s.frameOfs.toNat + la) (lp - M)) (s.dbufRead (s.frameOfs.toNat + la + (lp - M)) M) with
          | none => { s with outLen := 0, result := .authFail, detail := 0, pending := none, done := true }
          | some m =>
            { s with
              obuf := Memory.writeBytes s.obuf 0 m
              outLen := BitVec.ofNat 32 (lp - M)
              result := .ok, detail := 0, pending := none, done := true })

/-- R105, R103: CCM_ENC: its checks in order on unbounded arithmetic, then the ciphertext and tag in OBUF. -/
def Obligations.CcmEncEffect : Prop :=
  decodeWord 0x00000006 = .ok .ccmEnc
    ∧ ∀ (s : State) (M la lp : Nat), M = s.micLen.toNat → la = s.aadLen.toNat → lp = s.payloadLen.toNat →
      exec .ccmEnc s = .next
        (if ¬ (M = 0 ∨ M = 4 ∨ M = 8 ∨ M = 16) then
          { s with result := .badMicLen, detail := 0, pending := none, done := true }
        else if 2 ^ 16 < 1 + (lp + 15) / 16 then
          { s with result := .structErr, detail := 2, pending := none, done := true }
        else if 0 < M ∧ (0xFFFF < la ∨ 0xFFFF < lp) then
          { s with result := .structErr, detail := 3, pending := none, done := true }
        else if Config.dbufSize < s.frameOfs.toNat + la + lp then
          { s with result := .bounds, detail := 1, pending := none, done := true }
        else if Config.obufSize < lp + M then
          { s with result := .bounds, detail := 2, pending := none, done := true }
        else
          { s with
            obuf := Memory.writeBytes s.obuf 0
              (ccmEncrypt s.key s.nonce (s.dbufRead s.frameOfs.toNat la) (s.dbufRead (s.frameOfs.toNat + la) lp) M)
            outLen := BitVec.ofNat 32 (lp + M)
            result := .ok, detail := 0, pending := none, done := true })

/-- R92, R89: byte j of the counter-mode transform, from the block of counter j/16 + 1, whose bytes are 01, the nonce
and the counter big-endian; the transform is its own inverse. -/
def Obligations.CounterModeByBytes : Prop :=
  ∀ (K : Block) (N : Nonce) (x : Bytes),
    (ctr K N x).length = x.length
      ∧ (∀ j < x.length, (ctr K N x).getD j 0
          = x.getD j 0 ^^^ (aes K (counterBlock N (j / 16 + 1))).toList.getD (j % 16) 0)
      ∧ (∀ i < 0x10000, (counterBlock N i).toList
          = [0x01] ++ N.toList ++ [BitVec.ofNat 8 (i / 256), BitVec.ofNat 8 (i % 256)])
      ∧ ctr K N (ctr K N x) = x

/-- R94, R95, R96, R63, within the lengths R91 admits: B0, its flags byte at each tag length; the separately padded
authentication input; and CBC-MAC as its chain: X starts at AES(K, B0), each 16-byte chunk B of that input takes X to
AES(K, X xor B), and the tag is the first M bytes of the last X. -/
def Obligations.AuthenticationInput : Prop :=
  (∀ (N : Nonce) (la lm M : Nat), M = 4 ∨ M = 8 ∨ M = 16 → lm ≤ 0xFFFF →
    (b0 N la lm M).toList
      = [(if 0 < la then 0x40#8 else 0x00#8) ||| (if M = 4 then 0x09#8 else if M = 8 then 0x19#8 else 0x39#8)]
          ++ N.toList ++ [BitVec.ofNat 8 (lm / 256), BitVec.ofNat 8 (lm % 256)])
  ∧ (∀ a m : Bytes, a.length ≤ 0xFFFF →
      ∃ za zm, za < 16 ∧ zm < 16 ∧ (m.length + zm) % 16 = 0 ∧ (2 + a.length + za) % 16 = 0
        ∧ (a = [] → authInput a m = m ++ List.replicate zm 0)
        ∧ (a ≠ [] → authInput a m = [BitVec.ofNat 8 (a.length / 256), BitVec.ofNat 8 (a.length % 256)] ++ a
            ++ List.replicate za 0 ++ (m ++ List.replicate zm 0)))
  ∧ ∀ (K : Block) (N : Nonce) (a m : Bytes) (M : Nat), M = 4 ∨ M = 8 ∨ M = 16 →
      a.length ≤ 0xFFFF → m.length ≤ 0xFFFF →
      ∃ X : Nat → Block, X 0 = aes K (b0 N a.length m.length M)
        ∧ (∀ i < (authInput a m).length / 16, ∃ Y : Block, X (i + 1) = aes K Y
            ∧ ∀ j < 16, Y.toList.getD j 0 = (X i).toList.getD j 0 ^^^ (authInput a m).getD (16 * i + j) 0)
        ∧ cbcMac K N a m M = (X ((authInput a m).length / 16)).toList.take M

/-- R101: ccm_decrypt undoes ccm_encrypt, for every key, nonce, associated data and plaintext, at every legal tag length, and
the result has the l_m + M bytes that R101 takes it apart into. -/
def Obligations.CcmRoundTrip : Prop :=
  ∀ (K : Block) (N : Nonce) (a m : Bytes) (M : Nat), M = 0 ∨ M = 4 ∨ M = 8 ∨ M = 16 →
    (ccmEncrypt K N a m M).length = m.length + M
    ∧ ccmDecrypt K N a ((ccmEncrypt K N a m M).take m.length) ((ccmEncrypt K N a m M).drop m.length) = some m

/-- R97, R98: decryption succeeds exactly when there is no tag or the computed tag is the unmasked received one, and then
every other tag of that length is rejected. -/
def Obligations.OnlyTheRightTagVerifies : Prop :=
  ∀ (K : Block) (N : Nonce) (a c U : Bytes),
    (∀ m, ccmDecrypt K N a c U = some m
      ↔ m = ctr K N c ∧ (U = [] ∨ cbcMac K N a (ctr K N c) U.length = xorBytes U (aes K (counterBlock N 0)).toList))
    ∧ ∀ U', U'.length = U.length → U.length ≤ 16 → U' ≠ U → (ccmDecrypt K N a c U).isSome = true →
        ccmDecrypt K N a c U' = none

/-! ### Key ring and flow cache -/

/-- R107: KR_LOAD appends an entry and names its slot, or reports KR_FULL with the ring unchanged. -/
def Obligations.KrLoadEffect : Prop :=
  decodeWord 0x00000007 = .ok .krLoad
    ∧ ∀ s : State, exec .krLoad s = .next
        (if s.ring.length = Config.krSlots then
          { s with result := .krFull, detail := 0, pending := none, done := true }
        else
          { s with
            ring := s.ring ++ [
              { key := s.key
                cls := KeyId.ofBits s.krArg.cls
                origin := if s.krArg.origin then .sniffed else .preconfigured
                prov := s.krProv
                label := s.krLabel }]
            resultInfo := { slot := BitVec.ofNat 8 s.ring.length, slotValid := true, fromCache := false, tried := 0 }
            result := .ok, detail := 0, pending := none, done := true })

/-- R108: KR_CLEAR empties the ring and the cache. -/
def Obligations.KrClearEffect : Prop :=
  decodeWord 0x00000008 = .ok .krClear
    ∧ ∀ s : State, exec .krClear s
        = .next { s with ring := [], cache := [], result := .ok, detail := 0, pending := none, done := true }

/-- R109: KR_READ copies a valid entry, with RD_META = 1 | CLASS << 1 | ORIGIN << 3, or reports BAD_SLOT. -/
def Obligations.KrReadEffect : Prop :=
  decodeWord 0x00000009 = .ok .krRead
    ∧ ∀ s : State,
      (s.ring.length ≤ s.krArg.slot.toNat → exec .krRead s
        = .next { s with result := .badSlot, detail := 0, pending := none, done := true })
      ∧ ∀ e, s.ring[s.krArg.slot.toNat]? = some e → ∃ md : RdMeta,
          exec .krRead s = .next { s with
            rdKey := e.key, rdMeta := md, rdProv := e.prov, rdLabel := e.label
            result := .ok, detail := 0, pending := none, done := true }
          ∧ md.word = 1 ||| (e.cls.bits.setWidth 32 <<< 1) ||| ((if e.origin = .sniffed then 1 else 0) <<< 3)

/-- R111: FC_REMEMBER: BAD_SLOT, then NOSRC, then remember_success for (SRC, SEC_CTRL[4:3]). -/
def Obligations.FcRememberEffect : Prop :=
  decodeWord 0x0000000A = .ok .fcRemember
    ∧ ∀ s : State, exec .fcRemember s = .next
        (if s.ring.length ≤ s.krArg.slot.toNat then
          { s with result := .badSlot, detail := 0, pending := none, done := true }
        else if s.hdrFlags.srcValid = false then
          { s with result := .noSrc, detail := 0, pending := none, done := true }
        else
          { s.rememberSuccess (s.srcHi ++ s.srcLo) (KeyId.ofBits (s.secCtrl.extractLsb' 3 2)) s.krArg.slot with
            result := .ok, detail := 0, pending := none, done := true })

/-- R110: remember_success overwrites the flow's slot, else appends, else drops the association and sets FCFULL; it changes
nothing else, and of two successes for a flow the last wins, so that the same one twice is recorded once. -/
def Obligations.RememberSuccessRule : Prop :=
  ∀ (s : State) (src : BitVec 64) (kid : KeyId) (slot : Byte),
    (s.cache.Pairwise FlowEntry.differs →
      s.rememberSuccess src kid slot =
        if ∃ e ∈ s.cache, e.src = src ∧ e.kid = kid then
          { s with cache := s.cache.map fun e => if e.src = src ∧ e.kid = kid then { e with slot := slot } else e }
        else if s.cache.length < Config.fcSlots then { s with cache := s.cache ++ [⟨src, kid, slot⟩] }
        else { s with fcfull := true })
    ∧ ∀ slot', (s.rememberSuccess src kid slot').rememberSuccess src kid slot = s.rememberSuccess src kid slot

/-- R113, R112: the candidate list, by its three parts; it has at most 1 + KR_COUNT entries. -/
def Obligations.CandidateOrder : Prop :=
  ∀ (s : State) (src : BitVec 64) (kid : KeyId),
    (s.candidatesFor src kid).length ≤ 1 + s.ring.length
    ∧ s.candidatesFor src kid =
      (match s.cache.find? fun e => decide (e.src = src ∧ e.kid = kid) with
        | some e => [⟨e.slot.toNat, true⟩]
        | none => [])
      ++ ((List.range s.ring.length).filter fun k =>
            match s.ring[k]? with
            | some e => decide (e.origin = .sniffed ∧ e.cls = if kid = .network then .network else .link)
            | none => false).map (⟨·, false⟩)
      ++ ((List.range s.ring.length).filter fun k =>
            match s.ring[k]? with
            | some e => decide (e.origin = .preconfigured)
            | none => false).map (⟨·, false⟩)

/-- R110, R113: after a success is remembered for a flow, its slot is that flow's first candidate, and every other flow's
candidates are as before. -/
def Obligations.RememberedKeyIsTheFirstCandidate : Prop :=
  ∀ (s : State) (src : BitVec 64) (kid : KeyId) (slot : Byte),
    (((∃ e ∈ s.cache, e.src = src ∧ e.kid = kid) ∨ s.cache.length < Config.fcSlots) →
      (s.rememberSuccess src kid slot).candidatesFor src kid
        = ⟨slot.toNat, true⟩ :: (({ s with cache := [] } : State).candidatesFor src kid))
    ∧ ∀ src' kid', ¬ (src' = src ∧ kid' = kid) →
        (s.rememberSuccess src kid slot).candidatesFor src' kid' = s.candidatesFor src' kid'

/-! ### DECRYPT_FRAME -/

/-- R118, R127: the checks of DECRYPT_FRAME in order; RESULT_INFO reads 0 after each. (R118's last check, on OBUF, is never
reached here: OBUF is as large as DBUF, so the check before it fails first; log 10.) -/
def Obligations.DecryptFrameChecks : Prop :=
  decodeWord 0x0000000B = .ok .decryptFrame
    ∧ ∀ (s : State) (M la lp : Nat), M = s.level.micLen → la = s.aadLen.toNat → lp = s.payloadLen.toNat →
      (lp < M → exec .decryptFrame s = .next { s with
        resultInfo := ⟨0, false, false, 0⟩, result := .structErr, detail := 1, pending := none, done := true })
      ∧ (M ≤ lp → s.level.encrypts = true → 2 ^ 16 < 1 + (lp - M + 15) / 16 →
          exec .decryptFrame s = .next { s with
            resultInfo := ⟨0, false, false, 0⟩, result := .structErr, detail := 2, pending := none, done := true })
      ∧ (M ≤ lp → (s.level.encrypts = true → 1 + (lp - M + 15) / 16 ≤ 2 ^ 16) → 0 < M →
          (if s.level.encrypts then 0xFFFF < la ∨ 0xFFFF < lp - M else 0xFFFF < la + (lp - M)) →
          exec .decryptFrame s = .next { s with
            resultInfo := ⟨0, false, false, 0⟩, result := .structErr, detail := 3, pending := none, done := true })
      ∧ (M ≤ lp → (s.level.encrypts = true → 1 + (lp - M + 15) / 16 ≤ 2 ^ 16) →
          (0 < M → if s.level.encrypts then la ≤ 0xFFFF ∧ lp - M ≤ 0xFFFF else la + (lp - M) ≤ 0xFFFF) →
          Config.dbufSize < s.frameOfs.toNat + la + lp →
          exec .decryptFrame s = .next { s with
            resultInfo := ⟨0, false, false, 0⟩, result := .bounds, detail := 1, pending := none, done := true })

/-- R119, R120: at level None the payload passes through, source address or not; without a source address an encrypting
level withholds the output and an integrity-only level returns the payload; RESULT_INFO reads 0. -/
def Obligations.DecryptFrameWithoutTrial : Prop :=
  ∀ s : State, frameChecksPass s →
    (s.level = .none → exec .decryptFrame s = .next { s with
      resultInfo := ⟨0, false, false, 0⟩
      obuf := Memory.writeBytes s.obuf 0 (frameText s), outLen := s.payloadLen
      result := .passThru, detail := 0, pending := none, done := true })
    ∧ (s.level ≠ .none → s.hdrFlags.srcValid = false → s.level.encrypts = true →
        exec .decryptFrame s = .next { s with
          resultInfo := ⟨0, false, false, 0⟩, outLen := 0
          result := .noSrc, detail := 0, pending := none, done := true })
    ∧ (s.level ≠ .none → s.hdrFlags.srcValid = false → s.level.encrypts = false →
        exec .decryptFrame s = .next { s with
          resultInfo := ⟨0, false, false, 0⟩
          obuf := Memory.writeBytes s.obuf 0 (frameText s)
          outLen := BitVec.ofNat 32 (s.payloadLen.toNat - s.level.micLen)
          result := .noSrc, detail := 0, pending := none, done := true })

/-- R124, R125: the first candidate whose attempt succeeds ends the command with OK: its output in OBUF, OUT_LEN its length,
RESULT_INFO naming it and the number tried, and the success remembered for the flow. -/
def Obligations.DecryptFrameFirstSuccess : Prop :=
  ∀ (s : State) (before after : List Candidate) (c : Candidate) (out : Bytes),
    frameChecksPass s → s.level ≠ .none → s.hdrFlags.srcValid = true →
    s.candidatesFor (s.srcHi ++ s.srcLo) s.frameKeyId = before ++ c :: after →
    (∀ b ∈ before, s.attempt b.slot = none) → s.attempt c.slot = some out →
    out.length = s.payloadLen.toNat - s.level.micLen
      ∧ exec .decryptFrame s = .next
        { s.rememberSuccess (s.srcHi ++ s.srcLo) s.frameKeyId (BitVec.ofNat 8 c.slot) with
          obuf := Memory.writeBytes s.obuf 0 out
          outLen := BitVec.ofNat 32 out.length
          resultInfo :=
            { slot := BitVec.ofNat 8 c.slot, slotValid := true, fromCache := c.fromCache
              tried := BitVec.ofNat 16 (before.length + 1) }
          result := .ok, detail := 0, pending := none, done := true }

/-- R124, R126: with no candidate that succeeds, EXHAUSTED without output at an encrypting level, UNVERIFIED with the payload
at an integrity-only level; TRIED counts every candidate and the flow cache is unchanged. -/
def Obligations.DecryptFrameNoSuccess : Prop :=
  ∀ s : State, frameChecksPass s → s.level ≠ .none → s.hdrFlags.srcValid = true →
    (∀ c ∈ s.candidatesFor (s.srcHi ++ s.srcLo) s.frameKeyId, s.attempt c.slot = none) →
    exec .decryptFrame s = .next
      (if s.level.encrypts then
        { s with
          outLen := 0
          resultInfo :=
            { slot := 0, slotValid := false, fromCache := false
              tried := BitVec.ofNat 16 (s.candidatesFor (s.srcHi ++ s.srcLo) s.frameKeyId).length }
          result := .exhausted, detail := 0, pending := none, done := true }
      else
        { s with
          obuf := Memory.writeBytes s.obuf 0 (frameText s)
          outLen := BitVec.ofNat 32 (s.payloadLen.toNat - s.level.micLen)
          resultInfo :=
            { slot := 0, slotValid := false, fromCache := false
              tried := BitVec.ofNat 16 (s.candidatesFor (s.srcHi ++ s.srcLo) s.frameKeyId).length }
          result := .unverified, detail := 0, pending := none, done := true })

/-- R121, R122, R123: what an attempt with a valid slot's key computes: the associated data with the control byte patched,
the key derived by key id, decryption at an encrypting level, and the tag alone over a ‖ ct at an integrity-only level. -/
def Obligations.AttemptRule : Prop :=
  ∀ (s : State) (slot : Nat) (e : KeyEntry) (K : Block) (a ct U : Bytes), s.ring[slot]? = some e →
    s.level.micLen ≤ s.payloadLen.toNat →
    K = (match s.frameKeyId with
      | .transport => deriveKey e.key 0x00
      | .load => deriveKey e.key 0x02
      | .network => e.key
      | .link => e.key) →
    a = (List.range s.aadLen.toNat).map (fun i =>
      if i = s.ctrlOfs.toNat then s.effCtrl else s.dbufByte (s.frameOfs.toNat + i)) →
    ct = frameText s →
    U = s.dbufRead (s.frameOfs.toNat + s.aadLen.toNat + (s.payloadLen.toNat - s.level.micLen)) s.level.micLen →
    (s.level.encrypts = true →
      s.attempt slot = ccmDecrypt K (buildNonce (s.srcHi ++ s.srcLo) s.frameCnt s.effCtrl) a ct U)
    ∧ (s.level.encrypts = false → s.attempt slot =
        if (ccmDecrypt K (buildNonce (s.srcHi ++ s.srcLo) s.frameCnt s.effCtrl) (a ++ ct) [] U).isSome then some ct
        else none)

/-- R27, R81, R128: DECRYPT_FRAME neither reads nor writes KEY, NONCE, DIGEST or MIC_LEN (nor the ECB, HASH and KR operands). -/
def Obligations.DecryptFrameIgnoresSingleKeyRegisters : Prop :=
  ∀ (s t : State) (k bi bo dg rk : Block) (n : Nonce) (ml : Byte) (ho hl : Word) (ka : KrArg),
    exec .decryptFrame s = .next t →
    exec .decryptFrame { s with
        key := k, blkIn := bi, blkOut := bo, digest := dg, rdKey := rk, nonce := n, micLen := ml
        hashOfs := ho, hashLen := hl, krArg := ka }
      = .next { t with
        key := k, blkIn := bi, blkOut := bo, digest := dg, rdKey := rk, nonce := n, micLen := ml
        hashOfs := ho, hashLen := hl, krArg := ka }

/-! ### What no command reads -/

/-- R77, R19: the level bits of SEC_CTRL, KSN_VALID and KEY_SEQ are read by no command. -/
def Obligations.ReceivedLevelAndKeySequenceAreNotRead : Prop :=
  ∀ (i : Instr) (s t : State) (c ks : Byte) (kv : Bool), c.extractLsb' 3 5 = s.secCtrl.extractLsb' 3 5 →
    exec i s = .next t →
    exec i { s with secCtrl := c, hdrFlags := { s.hdrFlags with ksnValid := kv, keySeq := ks } }
      = .next { t with secCtrl := c, hdrFlags := { s.hdrFlags with ksnValid := kv, keySeq := ks } }

/-- R160, R40: when the host has written every DBUF byte a command reads, its outcome is the same whatever the reset draws. -/
def Obligations.WrittenInputsHideTheDraws : Prop :=
  ∀ (i : Instr) (s t : State) (ep : Nat), (∀ e ∈ s.cache, e.slot.toNat < s.ring.length) → s.inputWritten i →
    exec i s = .next t → exec i { s with epoch := ep } = .next { t with epoch := ep }

/-! ### Cost -/

/-- R164, R102: the number of AES calls each command makes. -/
def Obligations.AesCallCounts : Prop :=
  ∀ s : State,
    (∀ i, i = .nop ∨ i = .nonceBuild ∨ i = .krLoad ∨ i = .krClear ∨ i = .krRead ∨ i = .fcRemember → aesCalls i s = 0)
    ∧ aesCalls .ecbEnc s = 1
    ∧ (∀ sel, aesCalls (.derive sel) s = 5)
    ∧ (8 * s.hashLen.toNat ≤ 0xFFFF → s.hashOfs.toNat + s.hashLen.toNat ≤ Config.dbufSize →
        aesCalls .hash s = (s.hashLen.toNat + 3 + 15) / 16)
    ∧ ((∃ t, exec .ccmDec s = .next t ∧ (t.result = .ok ∨ t.result = .authFail)) →
        aesCalls .ccmDec s
          = ccmCallFormula s.aadLen.toNat (s.payloadLen.toNat - s.micLen.toNat) s.micLen.toNat)
    ∧ ((∃ t, exec .ccmEnc s = .next t ∧ t.result = .ok) →
        aesCalls .ccmEnc s = ccmCallFormula s.aadLen.toNat s.payloadLen.toNat s.micLen.toNat)
    ∧ (∀ i, (i = .hash ∨ i = .ccmDec ∨ i = .ccmEnc ∨ i = .decryptFrame) →
        (∃ t, exec i s = .next t ∧ (t.result = .badMicLen ∨ t.result = .structErr ∨ t.result = .bounds)) →
        aesCalls i s = 0)
    ∧ (frameChecksPass s → s.level ≠ .none → s.hdrFlags.srcValid = true →
        aesCalls .decryptFrame s = s.tryFrame.tried
          * ((if s.frameKeyId = .transport ∨ s.frameKeyId = .load then 5 else 0)
            + if s.level.encrypts then
                ccmCallFormula s.aadLen.toNat (s.payloadLen.toNat - s.level.micLen) s.level.micLen
              else
                ccmCallFormula (s.aadLen.toNat + (s.payloadLen.toNat - s.level.micLen)) 0 s.level.micLen))
end

