-- ==== Sys2Proof/Laws/Memory.lean ====
section
/-! SUPPORT. The laws of a buffer's cells: read after write, and that every operation keeps the
canonical form. -/

namespace Sys2Proof.Machine

@[simp] theorem read_nil (ofs : Nat) : Memory.read [] ofs = none := rfl

theorem read_write_same (m : Memory) (ofs : Nat) (v : Byte) : Memory.read (Memory.write m ofs v) ofs = some v := by
  induction m with
  | nil => simp [Memory.write, Memory.read]
  | cons c rest ih =>
    obtain ⟨a, b⟩ := c
    simp only [Memory.write]
    split
    · simp [Memory.read]
    · split
      · simp [Memory.read]
      · rename_i h
        simp [Memory.read, ih, Ne.symm h]

theorem read_write_other (m : Memory) {ofs ofs' : Nat} (v : Byte) (h : ofs' ≠ ofs) :
    Memory.read (Memory.write m ofs v) ofs' = Memory.read m ofs' := by
  induction m with
  | nil => simp [Memory.write, Memory.read, h.symm, Memory.unlisted]
  | cons c rest ih =>
    obtain ⟨a, b⟩ := c
    simp only [Memory.write]
    split
    · simp [Memory.read, h.symm]
    · split
      · rename_i e
        subst e
        simp [Memory.read, h.symm]
      · simp [Memory.read, ih]

/-- Reading one byte after writing one byte. -/
theorem read_write (m : Memory) (ofs ofs' : Nat) (v : Byte) :
    Memory.read (Memory.write m ofs v) ofs' = if ofs' = ofs then some v else Memory.read m ofs' := by
  split
  · rename_i h
    rw [h, read_write_same]
  · rename_i h
    rw [read_write_other m v h]

/-- Reading one byte after writing a byte string. -/
theorem read_writeBytes (m : Memory) (ofs : Nat) (vs : Bytes) (a : Nat) :
    Memory.read (Memory.writeBytes m ofs vs) a
      = if ofs ≤ a ∧ a < ofs + vs.length then some (vs.getD (a - ofs) 0) else Memory.read m a := by
  induction vs generalizing m ofs with
  | nil => simp [Memory.writeBytes]
  | cons v rest ih =>
    rw [Memory.writeBytes, ih, read_write]
    rcases Nat.lt_trichotomy a ofs with h | h | h
    · rw [if_neg (by omega), if_neg (by omega), if_neg (by omega)]
    · subst h
      rw [if_neg (by omega), if_pos rfl, if_pos (by simp)]
      simp
    · have e : a - ofs = (a - (ofs + 1)) + 1 := by omega
      by_cases hl : a < ofs + 1 + rest.length
      · rw [if_pos ⟨by omega, hl⟩, if_pos ⟨by omega, by simp; omega⟩, e]
        simp
      · rw [if_neg (by omega), if_neg (by omega), if_neg (by simp; omega)]

/-- A byte no written cell covers keeps its value. -/
theorem read_writeBytes_outside (m : Memory) {ofs a : Nat} (vs : Bytes) (h : ¬ (ofs ≤ a ∧ a < ofs + vs.length)) :
    Memory.read (Memory.writeBytes m ofs vs) a = Memory.read m a := by
  rw [read_writeBytes, if_neg h]

theorem mem_write_offset {m : Memory} {ofs : Nat} {v : Byte} {c : Host.Cell} (h : c ∈ Memory.write m ofs v) :
    c.1 = ofs ∨ c ∈ m := by
  induction m with
  | nil => simp_all [Memory.write]
  | cons d rest ih =>
    obtain ⟨a, b⟩ := d
    simp only [Memory.write] at h
    split at h
    · rcases List.mem_cons.mp h with rfl | h
      · exact .inl rfl
      · exact .inr h
    · split at h
      · rcases List.mem_cons.mp h with rfl | h
        · exact .inl rfl
        · exact .inr (List.mem_cons_of_mem _ h)
      · rcases List.mem_cons.mp h with rfl | h
        · exact .inr (List.mem_cons_self ..)
        · exact (ih h).imp_right (List.mem_cons_of_mem _)

/-- Writing a byte inside the buffer keeps the canonical form. -/
theorem write_wf {size : Nat} {m : Memory} {ofs : Nat} (v : Byte) (hm : Memory.wf size m) (h : ofs < size) :
    Memory.wf size (Memory.write m ofs v) := by
  obtain ⟨hs, hb⟩ := hm
  refine ⟨?_, fun c hc => (mem_write_offset hc).elim (fun e => e ▸ h) (hb c)⟩
  clear hb
  induction m with
  | nil => simp [Memory.write]
  | cons d rest ih =>
    obtain ⟨a, b⟩ := d
    obtain ⟨h1, h2⟩ := List.pairwise_cons.mp hs
    simp only [Memory.write]
    split
    · rename_i hlt
      refine List.pairwise_cons.mpr ⟨fun c hc => ?_, hs⟩
      rcases List.mem_cons.mp hc with rfl | hc
      · exact hlt
      · exact Nat.lt_trans hlt (h1 c hc)
    · split
      · rename_i he
        subst he
        exact List.pairwise_cons.mpr ⟨h1, h2⟩
      · refine List.pairwise_cons.mpr ⟨fun c hc => ?_, ih h2⟩
        rcases mem_write_offset hc with e | hc
        · show a < c.1
          omega
        · exact h1 c hc

/-- Writing a byte string inside the buffer keeps the canonical form. -/
theorem writeBytes_wf {size : Nat} {m : Memory} {ofs : Nat} (vs : Bytes) (hm : Memory.wf size m)
    (h : ofs + vs.length ≤ size) : Memory.wf size (Memory.writeBytes m ofs vs) := by
  induction vs generalizing m ofs with
  | nil => exact hm
  | cons v rest ih =>
    simp only [List.length_cons] at h
    exact ih (write_wf v hm (by omega)) (by omega)

/-- The buffers after reset are in canonical form. -/
theorem reset_wf (size : Nat) : Memory.wf size State.reset.dbuf ∧ Memory.wf size State.reset.obuf := by
  simp [Memory.wf, State.reset]

/-- The byte string read from DBUF has the length asked for. -/
@[simp] theorem dbufRead_length (s : State) (ofs n : Nat) : (s.dbufRead ofs n).length = n := by
  simp [State.dbufRead]

/-- OBUF after ObufWrite (spec R39). -/
theorem obufByte_obufWrite (s : State) (ofs : Nat) (v : Bytes) (a : Nat) :
    (s.obufWrite ofs v).obufByte a
      = if ofs ≤ a ∧ a < ofs + v.length then v.getD (a - ofs) 0 else s.obufByte a := by
  unfold State.obufByte State.obufWrite
  rw [read_writeBytes]
  split <;> simp

end Sys2Proof.Machine
end

