-- ==== Sys2Proof/Laws/Bytes.lean ====
section
/-! SUPPORT. Lengths of the byte strings, and the small laws of exclusive-or, padding and blocks. -/

namespace Sys2Proof.Machine

@[simp] theorem le_length (n v : Nat) : (le n v).length = n := by simp [le]

@[simp] theorem be_length (n v : Nat) : (be n v).length = n := by simp [be]

@[simp] theorem xorBytes_length (a b : Bytes) : (xorBytes a b).length = min a.length b.length := by
  simp [xorBytes]

/-- Exclusive-or with the same string twice gives the first string back. -/
theorem xorBytes_cancel (a k : Bytes) (h : a.length ≤ k.length) : xorBytes (xorBytes a k) k = a := by
  induction a generalizing k with
  | nil => simp [xorBytes]
  | cons x rest ih =>
    match k with
    | [] => simp at h
    | y :: ys =>
      simp only [List.length_cons, Nat.add_le_add_iff_right] at h
      have hx : x ^^^ y ^^^ y = x := by rw [BitVec.xor_assoc, BitVec.xor_self, BitVec.xor_zero]
      have := ih ys h
      simp_all [xorBytes]

@[simp] theorem blockOf_toList_length (s : Bytes) : (blockOf s).toList.length = 16 := by simp

theorem ceil16_bound (n : Nat) : n ≤ 16 * ceil16 n ∧ 16 * ceil16 n < n + 16 := by
  unfold ceil16
  omega

@[simp] theorem pad16_length (s : Bytes) : (pad16 s).length = 16 * ceil16 s.length := by
  have := (ceil16_bound s.length).1
  simp [pad16]
  omega

@[simp] theorem takeBlocks_length (n : Nat) (s : Bytes) : (takeBlocks n s).length = n := by
  induction n generalizing s with
  | zero => rfl
  | succ n ih => simp [takeBlocks, ih]

@[simp] theorem blocks16_length (s : Bytes) : (blocks16 s).length = s.length / 16 := by simp [blocks16]

/-- The chunks of `takeBlocks`: byte j of chunk i is byte 16i + j of the string. -/
theorem takeBlocks_getElem (n : Nat) (s : Bytes) (i : Nat) (h : i < (takeBlocks n s).length) :
    (takeBlocks n s)[i] = blockOf ((s.drop (16 * i)).take 16) := by
  induction n generalizing s i with
  | zero => simp at h
  | succ n ih =>
    cases i with
    | zero => simp [takeBlocks]
    | succ i =>
      simp only [takeBlocks, List.getElem_cons_succ]
      rw [ih, List.drop_drop]
      congr 3
      omega

theorem blockOf_chunk_getD (s : Bytes) (i : Nat) {j : Nat} (h : j < 16) :
    (blockOf ((s.drop (16 * i)).take 16)).toList.getD j 0 = s.getD (16 * i + j) 0 := by
  interval_cases j <;> simp [blockOf]

theorem xorBlock_getD (a b : Block) {j : Nat} (h : j < 16) :
    (xorBlock a b).toList.getD j 0 = a.toList.getD j 0 ^^^ b.toList.getD j 0 := by
  interval_cases j <;> simp [xorBlock]

/-- One more block absorbed by a chain of blocks. -/
theorem foldl_take_succ (f : Block → Block → Block) (h : Block) (bs : List Block) {i : Nat} (hi : i < bs.length) :
    (bs.take (i + 1)).foldl f h = f ((bs.take i).foldl f h) bs[i] := by
  rw [← List.take_append_getElem hi, List.foldl_append]
  rfl

@[simp] theorem keystream_length (K : Block) (N : Nonce) (l : Nat) : (keystream K N l).length = l := by
  have h := (ceil16_bound l).1
  simp [keystream, List.length_flatMap]
  omega

@[simp] theorem ctr_length (K : Block) (N : Nonce) (x : Bytes) : (ctr K N x).length = x.length := by
  simp [ctr]

@[simp] theorem cbcMac_length (K : Block) (N : Nonce) (a m : Bytes) (M : Nat) :
    (cbcMac K N a m M).length = min M 16 := by
  simp [cbcMac]

@[simp] theorem maskTag_length (K : Block) (N : Nonce) (t : Bytes) : (maskTag K N t).length = min t.length 16 := by
  simp [maskTag]

/-- ccm_decrypt succeeds only with the plaintext of its ciphertext (spec R99). -/
theorem ccmDecrypt_some {K : Block} {N : Nonce} {a c U m : Bytes} (h : ccmDecrypt K N a c U = some m) :
    m = ctr K N c := by
  unfold ccmDecrypt at h
  split at h
  · exact (Option.some.inj h).symm
  · split at h
    · exact (Option.some.inj h).symm
    · cases h

/-- When ccm_decrypt succeeds (spec R98, R99). -/
theorem ccmDecrypt_isSome (K : Block) (N : Nonce) (a c U : Bytes) :
    (ccmDecrypt K N a c U).isSome
      = decide (U.length = 0 ∨ cbcMac K N a (ctr K N c) U.length = maskTag K N U) := by
  unfold ccmDecrypt
  by_cases h : U.length = 0
  · simp [h]
  · by_cases h' : cbcMac K N a (ctr K N c) U.length = maskTag K N U <;> simp [h, h']

theorem ccmDecrypt_length {K : Block} {N : Nonce} {a c U m : Bytes} (h : ccmDecrypt K N a c U = some m) :
    m.length = c.length := by
  rw [ccmDecrypt_some h, ctr_length]

/-- The length of ccm_encrypt's output for a legal tag length (spec R100). -/
theorem ccmEncrypt_length (K : Block) (N : Nonce) (a m : Bytes) {M : Nat} (h : micLenLegal M = true) :
    (ccmEncrypt K N a m M).length = m.length + M := by
  simp only [micLenLegal, Bool.or_eq_true, beq_iff_eq] at h
  unfold ccmEncrypt
  split
  · simp [*]
  · simp
    omega

/-- An attempt that succeeds gives an output as long as the ciphertext (spec R123). -/
theorem attemptWith_length {enc : Bool} {K : Block} {N : Nonce} {a ct U o : Bytes}
    (h : attemptWith enc K N a ct U = some o) : o.length = ct.length := by
  unfold attemptWith at h
  split at h
  · exact ccmDecrypt_length h
  · obtain ⟨_, _, rfl⟩ := Option.map_eq_some_iff.mp h
    rfl

@[simp] theorem aad_length (s : State) : s.aad.length = s.aadLen.toNat := by simp [State.aad]

@[simp] theorem payload_length (s : State) : s.payload.length = s.payloadLen.toNat := by simp [State.payload]

@[simp] theorem patchedAad_length (s : State) : s.patchedAad.length = s.aadLen.toNat := by simp [State.patchedAad]

@[simp] theorem frameText_length (s : State) : s.frameText.length = s.frameTextLen := by
  simp [State.frameText, State.frameTextLen]

theorem frameTag_length (s : State) (h : s.level.micLen ≤ s.payloadLen.toNat) :
    s.frameTag.length = s.level.micLen := by
  simp [State.frameTag, State.frameTextLen]
  omega

/-- The first failing check is one of the list. -/
theorem firstFailure_some {cs : List Check} {c : Check} (h : firstFailure cs = some c) : c ∈ cs ∧ c.fails = true :=
  ⟨List.mem_of_find?_eq_some h, by simpa using List.find?_some h⟩

/-- No check fails. -/
theorem firstFailure_none {cs : List Check} (h : firstFailure cs = none) : ∀ c ∈ cs, c.fails = false := by
  simpa [firstFailure] using h

@[simp] theorem firstFailure_nil : firstFailure [] = none := rfl

@[simp] theorem firstFailure_cons (c : Check) (cs : List Check) :
    firstFailure (c :: cs) = if c.fails then some c else firstFailure cs := by
  unfold firstFailure
  rw [List.find?_cons]
  cases c.fails <;> rfl

end Sys2Proof.Machine
end

