-- ==== Sys2Proof/Laws/State.lean ====
section
/-! SUPPORT. One lemma a field for each named update of State, so that no proof unfolds a record update. -/

namespace Sys2Proof.Machine

/-! ### State.issue -/

@[simp] theorem issue_pending (s : State) (w : Word) : (s.issue w).pending = some w := rfl
@[simp] theorem issue_done (s : State) (w : Word) : (s.issue w).done = false := rfl
@[simp] theorem issue_result (s : State) (w : Word) : (s.issue w).result = s.result := rfl
@[simp] theorem issue_detail (s : State) (w : Word) : (s.issue w).detail = s.detail := rfl
@[simp] theorem issue_werr (s : State) (w : Word) : (s.issue w).werr = s.werr := rfl
@[simp] theorem issue_fcfull (s : State) (w : Word) : (s.issue w).fcfull = s.fcfull := rfl
@[simp] theorem issue_aerr (s : State) (w : Word) : (s.issue w).aerr = s.aerr := rfl
@[simp] theorem issue_config (s : State) (w : Word) : (s.issue w).config = s.config := rfl
@[simp] theorem issue_secCtrl (s : State) (w : Word) : (s.issue w).secCtrl = s.secCtrl := rfl
@[simp] theorem issue_frameCnt (s : State) (w : Word) : (s.issue w).frameCnt = s.frameCnt := rfl
@[simp] theorem issue_srcLo (s : State) (w : Word) : (s.issue w).srcLo = s.srcLo := rfl
@[simp] theorem issue_srcHi (s : State) (w : Word) : (s.issue w).srcHi = s.srcHi := rfl
@[simp] theorem issue_hdrFlags (s : State) (w : Word) : (s.issue w).hdrFlags = s.hdrFlags := rfl
@[simp] theorem issue_frameOfs (s : State) (w : Word) : (s.issue w).frameOfs = s.frameOfs := rfl
@[simp] theorem issue_aadLen (s : State) (w : Word) : (s.issue w).aadLen = s.aadLen := rfl
@[simp] theorem issue_payloadLen (s : State) (w : Word) : (s.issue w).payloadLen = s.payloadLen := rfl
@[simp] theorem issue_ctrlOfs (s : State) (w : Word) : (s.issue w).ctrlOfs = s.ctrlOfs := rfl
@[simp] theorem issue_micLen (s : State) (w : Word) : (s.issue w).micLen = s.micLen := rfl
@[simp] theorem issue_hashOfs (s : State) (w : Word) : (s.issue w).hashOfs = s.hashOfs := rfl
@[simp] theorem issue_hashLen (s : State) (w : Word) : (s.issue w).hashLen = s.hashLen := rfl
@[simp] theorem issue_outLen (s : State) (w : Word) : (s.issue w).outLen = s.outLen := rfl
@[simp] theorem issue_krArg (s : State) (w : Word) : (s.issue w).krArg = s.krArg := rfl
@[simp] theorem issue_krProv (s : State) (w : Word) : (s.issue w).krProv = s.krProv := rfl
@[simp] theorem issue_krLabel (s : State) (w : Word) : (s.issue w).krLabel = s.krLabel := rfl
@[simp] theorem issue_resultInfo (s : State) (w : Word) : (s.issue w).resultInfo = s.resultInfo := rfl
@[simp] theorem issue_key (s : State) (w : Word) : (s.issue w).key = s.key := rfl
@[simp] theorem issue_blkIn (s : State) (w : Word) : (s.issue w).blkIn = s.blkIn := rfl
@[simp] theorem issue_blkOut (s : State) (w : Word) : (s.issue w).blkOut = s.blkOut := rfl
@[simp] theorem issue_nonce (s : State) (w : Word) : (s.issue w).nonce = s.nonce := rfl
@[simp] theorem issue_digest (s : State) (w : Word) : (s.issue w).digest = s.digest := rfl
@[simp] theorem issue_rdKey (s : State) (w : Word) : (s.issue w).rdKey = s.rdKey := rfl
@[simp] theorem issue_rdMeta (s : State) (w : Word) : (s.issue w).rdMeta = s.rdMeta := rfl
@[simp] theorem issue_rdProv (s : State) (w : Word) : (s.issue w).rdProv = s.rdProv := rfl
@[simp] theorem issue_rdLabel (s : State) (w : Word) : (s.issue w).rdLabel = s.rdLabel := rfl
@[simp] theorem issue_dbuf (s : State) (w : Word) : (s.issue w).dbuf = s.dbuf := rfl
@[simp] theorem issue_obuf (s : State) (w : Word) : (s.issue w).obuf = s.obuf := rfl
@[simp] theorem issue_ring (s : State) (w : Word) : (s.issue w).ring = s.ring := rfl
@[simp] theorem issue_cache (s : State) (w : Word) : (s.issue w).cache = s.cache := rfl
@[simp] theorem issue_epoch (s : State) (w : Word) : (s.issue w).epoch = s.epoch := rfl
@[simp] theorem issue_agenda (s : State) (w : Word) : (s.issue w).agenda = s.agenda := rfl
@[simp] theorem issue_readData (s : State) (w : Word) : (s.issue w).readData = s.readData := rfl

/-! ### State.finish -/

@[simp] theorem finish_pending (s : State) (c : ResultCode) (d : BitVec 4) : (s.finish c d).pending = none := rfl
@[simp] theorem finish_done (s : State) (c : ResultCode) (d : BitVec 4) : (s.finish c d).done = true := rfl
@[simp] theorem finish_result (s : State) (c : ResultCode) (d : BitVec 4) : (s.finish c d).result = c := rfl
@[simp] theorem finish_detail (s : State) (c : ResultCode) (d : BitVec 4) : (s.finish c d).detail = d := rfl
@[simp] theorem finish_werr (s : State) (c : ResultCode) (d : BitVec 4) : (s.finish c d).werr = s.werr := rfl
@[simp] theorem finish_fcfull (s : State) (c : ResultCode) (d : BitVec 4) : (s.finish c d).fcfull = s.fcfull := rfl
@[simp] theorem finish_aerr (s : State) (c : ResultCode) (d : BitVec 4) : (s.finish c d).aerr = s.aerr := rfl
@[simp] theorem finish_config (s : State) (c : ResultCode) (d : BitVec 4) : (s.finish c d).config = s.config := rfl
@[simp] theorem finish_secCtrl (s : State) (c : ResultCode) (d : BitVec 4) : (s.finish c d).secCtrl = s.secCtrl := rfl
@[simp] theorem finish_frameCnt (s : State) (c : ResultCode) (d : BitVec 4) : (s.finish c d).frameCnt = s.frameCnt := rfl
@[simp] theorem finish_srcLo (s : State) (c : ResultCode) (d : BitVec 4) : (s.finish c d).srcLo = s.srcLo := rfl
@[simp] theorem finish_srcHi (s : State) (c : ResultCode) (d : BitVec 4) : (s.finish c d).srcHi = s.srcHi := rfl
@[simp] theorem finish_hdrFlags (s : State) (c : ResultCode) (d : BitVec 4) : (s.finish c d).hdrFlags = s.hdrFlags := rfl
@[simp] theorem finish_frameOfs (s : State) (c : ResultCode) (d : BitVec 4) : (s.finish c d).frameOfs = s.frameOfs := rfl
@[simp] theorem finish_aadLen (s : State) (c : ResultCode) (d : BitVec 4) : (s.finish c d).aadLen = s.aadLen := rfl
@[simp] theorem finish_payloadLen (s : State) (c : ResultCode) (d : BitVec 4) : (s.finish c d).payloadLen = s.payloadLen := rfl
@[simp] theorem finish_ctrlOfs (s : State) (c : ResultCode) (d : BitVec 4) : (s.finish c d).ctrlOfs = s.ctrlOfs := rfl
@[simp] theorem finish_micLen (s : State) (c : ResultCode) (d : BitVec 4) : (s.finish c d).micLen = s.micLen := rfl
@[simp] theorem finish_hashOfs (s : State) (c : ResultCode) (d : BitVec 4) : (s.finish c d).hashOfs = s.hashOfs := rfl
@[simp] theorem finish_hashLen (s : State) (c : ResultCode) (d : BitVec 4) : (s.finish c d).hashLen = s.hashLen := rfl
@[simp] theorem finish_outLen (s : State) (c : ResultCode) (d : BitVec 4) : (s.finish c d).outLen = s.outLen := rfl
@[simp] theorem finish_krArg (s : State) (c : ResultCode) (d : BitVec 4) : (s.finish c d).krArg = s.krArg := rfl
@[simp] theorem finish_krProv (s : State) (c : ResultCode) (d : BitVec 4) : (s.finish c d).krProv = s.krProv := rfl
@[simp] theorem finish_krLabel (s : State) (c : ResultCode) (d : BitVec 4) : (s.finish c d).krLabel = s.krLabel := rfl
@[simp] theorem finish_resultInfo (s : State) (c : ResultCode) (d : BitVec 4) : (s.finish c d).resultInfo = s.resultInfo := rfl
@[simp] theorem finish_key (s : State) (c : ResultCode) (d : BitVec 4) : (s.finish c d).key = s.key := rfl
@[simp] theorem finish_blkIn (s : State) (c : ResultCode) (d : BitVec 4) : (s.finish c d).blkIn = s.blkIn := rfl
@[simp] theorem finish_blkOut (s : State) (c : ResultCode) (d : BitVec 4) : (s.finish c d).blkOut = s.blkOut := rfl
@[simp] theorem finish_nonce (s : State) (c : ResultCode) (d : BitVec 4) : (s.finish c d).nonce = s.nonce := rfl
@[simp] theorem finish_digest (s : State) (c : ResultCode) (d : BitVec 4) : (s.finish c d).digest = s.digest := rfl
@[simp] theorem finish_rdKey (s : State) (c : ResultCode) (d : BitVec 4) : (s.finish c d).rdKey = s.rdKey := rfl
@[simp] theorem finish_rdMeta (s : State) (c : ResultCode) (d : BitVec 4) : (s.finish c d).rdMeta = s.rdMeta := rfl
@[simp] theorem finish_rdProv (s : State) (c : ResultCode) (d : BitVec 4) : (s.finish c d).rdProv = s.rdProv := rfl
@[simp] theorem finish_rdLabel (s : State) (c : ResultCode) (d : BitVec 4) : (s.finish c d).rdLabel = s.rdLabel := rfl
@[simp] theorem finish_dbuf (s : State) (c : ResultCode) (d : BitVec 4) : (s.finish c d).dbuf = s.dbuf := rfl
@[simp] theorem finish_obuf (s : State) (c : ResultCode) (d : BitVec 4) : (s.finish c d).obuf = s.obuf := rfl
@[simp] theorem finish_ring (s : State) (c : ResultCode) (d : BitVec 4) : (s.finish c d).ring = s.ring := rfl
@[simp] theorem finish_cache (s : State) (c : ResultCode) (d : BitVec 4) : (s.finish c d).cache = s.cache := rfl
@[simp] theorem finish_epoch (s : State) (c : ResultCode) (d : BitVec 4) : (s.finish c d).epoch = s.epoch := rfl
@[simp] theorem finish_agenda (s : State) (c : ResultCode) (d : BitVec 4) : (s.finish c d).agenda = s.agenda := rfl
@[simp] theorem finish_readData (s : State) (c : ResultCode) (d : BitVec 4) : (s.finish c d).readData = s.readData := rfl

/-! ### State.obufWrite -/

@[simp] theorem obufWrite_pending (s : State) (ofs : Nat) (v : Bytes) : (s.obufWrite ofs v).pending = s.pending := rfl
@[simp] theorem obufWrite_done (s : State) (ofs : Nat) (v : Bytes) : (s.obufWrite ofs v).done = s.done := rfl
@[simp] theorem obufWrite_result (s : State) (ofs : Nat) (v : Bytes) : (s.obufWrite ofs v).result = s.result := rfl
@[simp] theorem obufWrite_detail (s : State) (ofs : Nat) (v : Bytes) : (s.obufWrite ofs v).detail = s.detail := rfl
@[simp] theorem obufWrite_werr (s : State) (ofs : Nat) (v : Bytes) : (s.obufWrite ofs v).werr = s.werr := rfl
@[simp] theorem obufWrite_fcfull (s : State) (ofs : Nat) (v : Bytes) : (s.obufWrite ofs v).fcfull = s.fcfull := rfl
@[simp] theorem obufWrite_aerr (s : State) (ofs : Nat) (v : Bytes) : (s.obufWrite ofs v).aerr = s.aerr := rfl
@[simp] theorem obufWrite_config (s : State) (ofs : Nat) (v : Bytes) : (s.obufWrite ofs v).config = s.config := rfl
@[simp] theorem obufWrite_secCtrl (s : State) (ofs : Nat) (v : Bytes) : (s.obufWrite ofs v).secCtrl = s.secCtrl := rfl
@[simp] theorem obufWrite_frameCnt (s : State) (ofs : Nat) (v : Bytes) : (s.obufWrite ofs v).frameCnt = s.frameCnt := rfl
@[simp] theorem obufWrite_srcLo (s : State) (ofs : Nat) (v : Bytes) : (s.obufWrite ofs v).srcLo = s.srcLo := rfl
@[simp] theorem obufWrite_srcHi (s : State) (ofs : Nat) (v : Bytes) : (s.obufWrite ofs v).srcHi = s.srcHi := rfl
@[simp] theorem obufWrite_hdrFlags (s : State) (ofs : Nat) (v : Bytes) : (s.obufWrite ofs v).hdrFlags = s.hdrFlags := rfl
@[simp] theorem obufWrite_frameOfs (s : State) (ofs : Nat) (v : Bytes) : (s.obufWrite ofs v).frameOfs = s.frameOfs := rfl
@[simp] theorem obufWrite_aadLen (s : State) (ofs : Nat) (v : Bytes) : (s.obufWrite ofs v).aadLen = s.aadLen := rfl
@[simp] theorem obufWrite_payloadLen (s : State) (ofs : Nat) (v : Bytes) : (s.obufWrite ofs v).payloadLen = s.payloadLen := rfl
@[simp] theorem obufWrite_ctrlOfs (s : State) (ofs : Nat) (v : Bytes) : (s.obufWrite ofs v).ctrlOfs = s.ctrlOfs := rfl
@[simp] theorem obufWrite_micLen (s : State) (ofs : Nat) (v : Bytes) : (s.obufWrite ofs v).micLen = s.micLen := rfl
@[simp] theorem obufWrite_hashOfs (s : State) (ofs : Nat) (v : Bytes) : (s.obufWrite ofs v).hashOfs = s.hashOfs := rfl
@[simp] theorem obufWrite_hashLen (s : State) (ofs : Nat) (v : Bytes) : (s.obufWrite ofs v).hashLen = s.hashLen := rfl
@[simp] theorem obufWrite_outLen (s : State) (ofs : Nat) (v : Bytes) : (s.obufWrite ofs v).outLen = s.outLen := rfl
@[simp] theorem obufWrite_krArg (s : State) (ofs : Nat) (v : Bytes) : (s.obufWrite ofs v).krArg = s.krArg := rfl
@[simp] theorem obufWrite_krProv (s : State) (ofs : Nat) (v : Bytes) : (s.obufWrite ofs v).krProv = s.krProv := rfl
@[simp] theorem obufWrite_krLabel (s : State) (ofs : Nat) (v : Bytes) : (s.obufWrite ofs v).krLabel = s.krLabel := rfl
@[simp] theorem obufWrite_resultInfo (s : State) (ofs : Nat) (v : Bytes) : (s.obufWrite ofs v).resultInfo = s.resultInfo := rfl
@[simp] theorem obufWrite_key (s : State) (ofs : Nat) (v : Bytes) : (s.obufWrite ofs v).key = s.key := rfl
@[simp] theorem obufWrite_blkIn (s : State) (ofs : Nat) (v : Bytes) : (s.obufWrite ofs v).blkIn = s.blkIn := rfl
@[simp] theorem obufWrite_blkOut (s : State) (ofs : Nat) (v : Bytes) : (s.obufWrite ofs v).blkOut = s.blkOut := rfl
@[simp] theorem obufWrite_nonce (s : State) (ofs : Nat) (v : Bytes) : (s.obufWrite ofs v).nonce = s.nonce := rfl
@[simp] theorem obufWrite_digest (s : State) (ofs : Nat) (v : Bytes) : (s.obufWrite ofs v).digest = s.digest := rfl
@[simp] theorem obufWrite_rdKey (s : State) (ofs : Nat) (v : Bytes) : (s.obufWrite ofs v).rdKey = s.rdKey := rfl
@[simp] theorem obufWrite_rdMeta (s : State) (ofs : Nat) (v : Bytes) : (s.obufWrite ofs v).rdMeta = s.rdMeta := rfl
@[simp] theorem obufWrite_rdProv (s : State) (ofs : Nat) (v : Bytes) : (s.obufWrite ofs v).rdProv = s.rdProv := rfl
@[simp] theorem obufWrite_rdLabel (s : State) (ofs : Nat) (v : Bytes) : (s.obufWrite ofs v).rdLabel = s.rdLabel := rfl
@[simp] theorem obufWrite_dbuf (s : State) (ofs : Nat) (v : Bytes) : (s.obufWrite ofs v).dbuf = s.dbuf := rfl
@[simp] theorem obufWrite_obuf (s : State) (ofs : Nat) (v : Bytes) : (s.obufWrite ofs v).obuf = Memory.writeBytes s.obuf ofs v := rfl
@[simp] theorem obufWrite_ring (s : State) (ofs : Nat) (v : Bytes) : (s.obufWrite ofs v).ring = s.ring := rfl
@[simp] theorem obufWrite_cache (s : State) (ofs : Nat) (v : Bytes) : (s.obufWrite ofs v).cache = s.cache := rfl
@[simp] theorem obufWrite_epoch (s : State) (ofs : Nat) (v : Bytes) : (s.obufWrite ofs v).epoch = s.epoch := rfl
@[simp] theorem obufWrite_agenda (s : State) (ofs : Nat) (v : Bytes) : (s.obufWrite ofs v).agenda = s.agenda := rfl
@[simp] theorem obufWrite_readData (s : State) (ofs : Nat) (v : Bytes) : (s.obufWrite ofs v).readData = s.readData := rfl

/-! ### State.deliver -/

@[simp] theorem deliver_pending (s : State) (v : Bytes) : (s.deliver v).pending = s.pending := rfl
@[simp] theorem deliver_done (s : State) (v : Bytes) : (s.deliver v).done = s.done := rfl
@[simp] theorem deliver_result (s : State) (v : Bytes) : (s.deliver v).result = s.result := rfl
@[simp] theorem deliver_detail (s : State) (v : Bytes) : (s.deliver v).detail = s.detail := rfl
@[simp] theorem deliver_werr (s : State) (v : Bytes) : (s.deliver v).werr = s.werr := rfl
@[simp] theorem deliver_fcfull (s : State) (v : Bytes) : (s.deliver v).fcfull = s.fcfull := rfl
@[simp] theorem deliver_aerr (s : State) (v : Bytes) : (s.deliver v).aerr = s.aerr := rfl
@[simp] theorem deliver_config (s : State) (v : Bytes) : (s.deliver v).config = s.config := rfl
@[simp] theorem deliver_secCtrl (s : State) (v : Bytes) : (s.deliver v).secCtrl = s.secCtrl := rfl
@[simp] theorem deliver_frameCnt (s : State) (v : Bytes) : (s.deliver v).frameCnt = s.frameCnt := rfl
@[simp] theorem deliver_srcLo (s : State) (v : Bytes) : (s.deliver v).srcLo = s.srcLo := rfl
@[simp] theorem deliver_srcHi (s : State) (v : Bytes) : (s.deliver v).srcHi = s.srcHi := rfl
@[simp] theorem deliver_hdrFlags (s : State) (v : Bytes) : (s.deliver v).hdrFlags = s.hdrFlags := rfl
@[simp] theorem deliver_frameOfs (s : State) (v : Bytes) : (s.deliver v).frameOfs = s.frameOfs := rfl
@[simp] theorem deliver_aadLen (s : State) (v : Bytes) : (s.deliver v).aadLen = s.aadLen := rfl
@[simp] theorem deliver_payloadLen (s : State) (v : Bytes) : (s.deliver v).payloadLen = s.payloadLen := rfl
@[simp] theorem deliver_ctrlOfs (s : State) (v : Bytes) : (s.deliver v).ctrlOfs = s.ctrlOfs := rfl
@[simp] theorem deliver_micLen (s : State) (v : Bytes) : (s.deliver v).micLen = s.micLen := rfl
@[simp] theorem deliver_hashOfs (s : State) (v : Bytes) : (s.deliver v).hashOfs = s.hashOfs := rfl
@[simp] theorem deliver_hashLen (s : State) (v : Bytes) : (s.deliver v).hashLen = s.hashLen := rfl
@[simp] theorem deliver_outLen (s : State) (v : Bytes) : (s.deliver v).outLen = BitVec.ofNat 32 v.length := rfl
@[simp] theorem deliver_krArg (s : State) (v : Bytes) : (s.deliver v).krArg = s.krArg := rfl
@[simp] theorem deliver_krProv (s : State) (v : Bytes) : (s.deliver v).krProv = s.krProv := rfl
@[simp] theorem deliver_krLabel (s : State) (v : Bytes) : (s.deliver v).krLabel = s.krLabel := rfl
@[simp] theorem deliver_resultInfo (s : State) (v : Bytes) : (s.deliver v).resultInfo = s.resultInfo := rfl
@[simp] theorem deliver_key (s : State) (v : Bytes) : (s.deliver v).key = s.key := rfl
@[simp] theorem deliver_blkIn (s : State) (v : Bytes) : (s.deliver v).blkIn = s.blkIn := rfl
@[simp] theorem deliver_blkOut (s : State) (v : Bytes) : (s.deliver v).blkOut = s.blkOut := rfl
@[simp] theorem deliver_nonce (s : State) (v : Bytes) : (s.deliver v).nonce = s.nonce := rfl
@[simp] theorem deliver_digest (s : State) (v : Bytes) : (s.deliver v).digest = s.digest := rfl
@[simp] theorem deliver_rdKey (s : State) (v : Bytes) : (s.deliver v).rdKey = s.rdKey := rfl
@[simp] theorem deliver_rdMeta (s : State) (v : Bytes) : (s.deliver v).rdMeta = s.rdMeta := rfl
@[simp] theorem deliver_rdProv (s : State) (v : Bytes) : (s.deliver v).rdProv = s.rdProv := rfl
@[simp] theorem deliver_rdLabel (s : State) (v : Bytes) : (s.deliver v).rdLabel = s.rdLabel := rfl
@[simp] theorem deliver_dbuf (s : State) (v : Bytes) : (s.deliver v).dbuf = s.dbuf := rfl
@[simp] theorem deliver_obuf (s : State) (v : Bytes) : (s.deliver v).obuf = Memory.writeBytes s.obuf 0 v := rfl
@[simp] theorem deliver_ring (s : State) (v : Bytes) : (s.deliver v).ring = s.ring := rfl
@[simp] theorem deliver_cache (s : State) (v : Bytes) : (s.deliver v).cache = s.cache := rfl
@[simp] theorem deliver_epoch (s : State) (v : Bytes) : (s.deliver v).epoch = s.epoch := rfl
@[simp] theorem deliver_agenda (s : State) (v : Bytes) : (s.deliver v).agenda = s.agenda := rfl
@[simp] theorem deliver_readData (s : State) (v : Bytes) : (s.deliver v).readData = s.readData := rfl

/-! ### State.withhold -/

@[simp] theorem withhold_pending (s : State) : (s.withhold).pending = s.pending := rfl
@[simp] theorem withhold_done (s : State) : (s.withhold).done = s.done := rfl
@[simp] theorem withhold_result (s : State) : (s.withhold).result = s.result := rfl
@[simp] theorem withhold_detail (s : State) : (s.withhold).detail = s.detail := rfl
@[simp] theorem withhold_werr (s : State) : (s.withhold).werr = s.werr := rfl
@[simp] theorem withhold_fcfull (s : State) : (s.withhold).fcfull = s.fcfull := rfl
@[simp] theorem withhold_aerr (s : State) : (s.withhold).aerr = s.aerr := rfl
@[simp] theorem withhold_config (s : State) : (s.withhold).config = s.config := rfl
@[simp] theorem withhold_secCtrl (s : State) : (s.withhold).secCtrl = s.secCtrl := rfl
@[simp] theorem withhold_frameCnt (s : State) : (s.withhold).frameCnt = s.frameCnt := rfl
@[simp] theorem withhold_srcLo (s : State) : (s.withhold).srcLo = s.srcLo := rfl
@[simp] theorem withhold_srcHi (s : State) : (s.withhold).srcHi = s.srcHi := rfl
@[simp] theorem withhold_hdrFlags (s : State) : (s.withhold).hdrFlags = s.hdrFlags := rfl
@[simp] theorem withhold_frameOfs (s : State) : (s.withhold).frameOfs = s.frameOfs := rfl
@[simp] theorem withhold_aadLen (s : State) : (s.withhold).aadLen = s.aadLen := rfl
@[simp] theorem withhold_payloadLen (s : State) : (s.withhold).payloadLen = s.payloadLen := rfl
@[simp] theorem withhold_ctrlOfs (s : State) : (s.withhold).ctrlOfs = s.ctrlOfs := rfl
@[simp] theorem withhold_micLen (s : State) : (s.withhold).micLen = s.micLen := rfl
@[simp] theorem withhold_hashOfs (s : State) : (s.withhold).hashOfs = s.hashOfs := rfl
@[simp] theorem withhold_hashLen (s : State) : (s.withhold).hashLen = s.hashLen := rfl
@[simp] theorem withhold_outLen (s : State) : (s.withhold).outLen = 0 := rfl
@[simp] theorem withhold_krArg (s : State) : (s.withhold).krArg = s.krArg := rfl
@[simp] theorem withhold_krProv (s : State) : (s.withhold).krProv = s.krProv := rfl
@[simp] theorem withhold_krLabel (s : State) : (s.withhold).krLabel = s.krLabel := rfl
@[simp] theorem withhold_resultInfo (s : State) : (s.withhold).resultInfo = s.resultInfo := rfl
@[simp] theorem withhold_key (s : State) : (s.withhold).key = s.key := rfl
@[simp] theorem withhold_blkIn (s : State) : (s.withhold).blkIn = s.blkIn := rfl
@[simp] theorem withhold_blkOut (s : State) : (s.withhold).blkOut = s.blkOut := rfl
@[simp] theorem withhold_nonce (s : State) : (s.withhold).nonce = s.nonce := rfl
@[simp] theorem withhold_digest (s : State) : (s.withhold).digest = s.digest := rfl
@[simp] theorem withhold_rdKey (s : State) : (s.withhold).rdKey = s.rdKey := rfl
@[simp] theorem withhold_rdMeta (s : State) : (s.withhold).rdMeta = s.rdMeta := rfl
@[simp] theorem withhold_rdProv (s : State) : (s.withhold).rdProv = s.rdProv := rfl
@[simp] theorem withhold_rdLabel (s : State) : (s.withhold).rdLabel = s.rdLabel := rfl
@[simp] theorem withhold_dbuf (s : State) : (s.withhold).dbuf = s.dbuf := rfl
@[simp] theorem withhold_obuf (s : State) : (s.withhold).obuf = s.obuf := rfl
@[simp] theorem withhold_ring (s : State) : (s.withhold).ring = s.ring := rfl
@[simp] theorem withhold_cache (s : State) : (s.withhold).cache = s.cache := rfl
@[simp] theorem withhold_epoch (s : State) : (s.withhold).epoch = s.epoch := rfl
@[simp] theorem withhold_agenda (s : State) : (s.withhold).agenda = s.agenda := rfl
@[simp] theorem withhold_readData (s : State) : (s.withhold).readData = s.readData := rfl

/-! ### State.noteAlignment -/

@[simp] theorem noteAlignment_pending (s : State) (w : Width) (ofs : Nat) : (s.noteAlignment w ofs).pending = s.pending := rfl
@[simp] theorem noteAlignment_done (s : State) (w : Width) (ofs : Nat) : (s.noteAlignment w ofs).done = s.done := rfl
@[simp] theorem noteAlignment_result (s : State) (w : Width) (ofs : Nat) : (s.noteAlignment w ofs).result = s.result := rfl
@[simp] theorem noteAlignment_detail (s : State) (w : Width) (ofs : Nat) : (s.noteAlignment w ofs).detail = s.detail := rfl
@[simp] theorem noteAlignment_werr (s : State) (w : Width) (ofs : Nat) : (s.noteAlignment w ofs).werr = s.werr := rfl
@[simp] theorem noteAlignment_fcfull (s : State) (w : Width) (ofs : Nat) : (s.noteAlignment w ofs).fcfull = s.fcfull := rfl
@[simp] theorem noteAlignment_aerr (s : State) (w : Width) (ofs : Nat) : (s.noteAlignment w ofs).aerr = (s.aerr || !w.aligned ofs) := rfl
@[simp] theorem noteAlignment_config (s : State) (w : Width) (ofs : Nat) : (s.noteAlignment w ofs).config = s.config := rfl
@[simp] theorem noteAlignment_secCtrl (s : State) (w : Width) (ofs : Nat) : (s.noteAlignment w ofs).secCtrl = s.secCtrl := rfl
@[simp] theorem noteAlignment_frameCnt (s : State) (w : Width) (ofs : Nat) : (s.noteAlignment w ofs).frameCnt = s.frameCnt := rfl
@[simp] theorem noteAlignment_srcLo (s : State) (w : Width) (ofs : Nat) : (s.noteAlignment w ofs).srcLo = s.srcLo := rfl
@[simp] theorem noteAlignment_srcHi (s : State) (w : Width) (ofs : Nat) : (s.noteAlignment w ofs).srcHi = s.srcHi := rfl
@[simp] theorem noteAlignment_hdrFlags (s : State) (w : Width) (ofs : Nat) : (s.noteAlignment w ofs).hdrFlags = s.hdrFlags := rfl
@[simp] theorem noteAlignment_frameOfs (s : State) (w : Width) (ofs : Nat) : (s.noteAlignment w ofs).frameOfs = s.frameOfs := rfl
@[simp] theorem noteAlignment_aadLen (s : State) (w : Width) (ofs : Nat) : (s.noteAlignment w ofs).aadLen = s.aadLen := rfl
@[simp] theorem noteAlignment_payloadLen (s : State) (w : Width) (ofs : Nat) : (s.noteAlignment w ofs).payloadLen = s.payloadLen := rfl
@[simp] theorem noteAlignment_ctrlOfs (s : State) (w : Width) (ofs : Nat) : (s.noteAlignment w ofs).ctrlOfs = s.ctrlOfs := rfl
@[simp] theorem noteAlignment_micLen (s : State) (w : Width) (ofs : Nat) : (s.noteAlignment w ofs).micLen = s.micLen := rfl
@[simp] theorem noteAlignment_hashOfs (s : State) (w : Width) (ofs : Nat) : (s.noteAlignment w ofs).hashOfs = s.hashOfs := rfl
@[simp] theorem noteAlignment_hashLen (s : State) (w : Width) (ofs : Nat) : (s.noteAlignment w ofs).hashLen = s.hashLen := rfl
@[simp] theorem noteAlignment_outLen (s : State) (w : Width) (ofs : Nat) : (s.noteAlignment w ofs).outLen = s.outLen := rfl
@[simp] theorem noteAlignment_krArg (s : State) (w : Width) (ofs : Nat) : (s.noteAlignment w ofs).krArg = s.krArg := rfl
@[simp] theorem noteAlignment_krProv (s : State) (w : Width) (ofs : Nat) : (s.noteAlignment w ofs).krProv = s.krProv := rfl
@[simp] theorem noteAlignment_krLabel (s : State) (w : Width) (ofs : Nat) : (s.noteAlignment w ofs).krLabel = s.krLabel := rfl
@[simp] theorem noteAlignment_resultInfo (s : State) (w : Width) (ofs : Nat) : (s.noteAlignment w ofs).resultInfo = s.resultInfo := rfl
@[simp] theorem noteAlignment_key (s : State) (w : Width) (ofs : Nat) : (s.noteAlignment w ofs).key = s.key := rfl
@[simp] theorem noteAlignment_blkIn (s : State) (w : Width) (ofs : Nat) : (s.noteAlignment w ofs).blkIn = s.blkIn := rfl
@[simp] theorem noteAlignment_blkOut (s : State) (w : Width) (ofs : Nat) : (s.noteAlignment w ofs).blkOut = s.blkOut := rfl
@[simp] theorem noteAlignment_nonce (s : State) (w : Width) (ofs : Nat) : (s.noteAlignment w ofs).nonce = s.nonce := rfl
@[simp] theorem noteAlignment_digest (s : State) (w : Width) (ofs : Nat) : (s.noteAlignment w ofs).digest = s.digest := rfl
@[simp] theorem noteAlignment_rdKey (s : State) (w : Width) (ofs : Nat) : (s.noteAlignment w ofs).rdKey = s.rdKey := rfl
@[simp] theorem noteAlignment_rdMeta (s : State) (w : Width) (ofs : Nat) : (s.noteAlignment w ofs).rdMeta = s.rdMeta := rfl
@[simp] theorem noteAlignment_rdProv (s : State) (w : Width) (ofs : Nat) : (s.noteAlignment w ofs).rdProv = s.rdProv := rfl
@[simp] theorem noteAlignment_rdLabel (s : State) (w : Width) (ofs : Nat) : (s.noteAlignment w ofs).rdLabel = s.rdLabel := rfl
@[simp] theorem noteAlignment_dbuf (s : State) (w : Width) (ofs : Nat) : (s.noteAlignment w ofs).dbuf = s.dbuf := rfl
@[simp] theorem noteAlignment_obuf (s : State) (w : Width) (ofs : Nat) : (s.noteAlignment w ofs).obuf = s.obuf := rfl
@[simp] theorem noteAlignment_ring (s : State) (w : Width) (ofs : Nat) : (s.noteAlignment w ofs).ring = s.ring := rfl
@[simp] theorem noteAlignment_cache (s : State) (w : Width) (ofs : Nat) : (s.noteAlignment w ofs).cache = s.cache := rfl
@[simp] theorem noteAlignment_epoch (s : State) (w : Width) (ofs : Nat) : (s.noteAlignment w ofs).epoch = s.epoch := rfl
@[simp] theorem noteAlignment_agenda (s : State) (w : Width) (ofs : Nat) : (s.noteAlignment w ofs).agenda = s.agenda := rfl
@[simp] theorem noteAlignment_readData (s : State) (w : Width) (ofs : Nat) : (s.noteAlignment w ofs).readData = s.readData := rfl

/-! ### State.hostRead -/

@[simp] theorem hostRead_pending (s : State) (w : Width) (ofs : Nat) : (s.hostRead w ofs).pending = s.pending := rfl
@[simp] theorem hostRead_done (s : State) (w : Width) (ofs : Nat) : (s.hostRead w ofs).done = s.done := rfl
@[simp] theorem hostRead_result (s : State) (w : Width) (ofs : Nat) : (s.hostRead w ofs).result = s.result := rfl
@[simp] theorem hostRead_detail (s : State) (w : Width) (ofs : Nat) : (s.hostRead w ofs).detail = s.detail := rfl
@[simp] theorem hostRead_werr (s : State) (w : Width) (ofs : Nat) : (s.hostRead w ofs).werr = s.werr := rfl
@[simp] theorem hostRead_fcfull (s : State) (w : Width) (ofs : Nat) : (s.hostRead w ofs).fcfull = s.fcfull := rfl
@[simp] theorem hostRead_aerr (s : State) (w : Width) (ofs : Nat) : (s.hostRead w ofs).aerr = (s.aerr || !w.aligned ofs) := rfl
@[simp] theorem hostRead_config (s : State) (w : Width) (ofs : Nat) : (s.hostRead w ofs).config = s.config := rfl
@[simp] theorem hostRead_secCtrl (s : State) (w : Width) (ofs : Nat) : (s.hostRead w ofs).secCtrl = s.secCtrl := rfl
@[simp] theorem hostRead_frameCnt (s : State) (w : Width) (ofs : Nat) : (s.hostRead w ofs).frameCnt = s.frameCnt := rfl
@[simp] theorem hostRead_srcLo (s : State) (w : Width) (ofs : Nat) : (s.hostRead w ofs).srcLo = s.srcLo := rfl
@[simp] theorem hostRead_srcHi (s : State) (w : Width) (ofs : Nat) : (s.hostRead w ofs).srcHi = s.srcHi := rfl
@[simp] theorem hostRead_hdrFlags (s : State) (w : Width) (ofs : Nat) : (s.hostRead w ofs).hdrFlags = s.hdrFlags := rfl
@[simp] theorem hostRead_frameOfs (s : State) (w : Width) (ofs : Nat) : (s.hostRead w ofs).frameOfs = s.frameOfs := rfl
@[simp] theorem hostRead_aadLen (s : State) (w : Width) (ofs : Nat) : (s.hostRead w ofs).aadLen = s.aadLen := rfl
@[simp] theorem hostRead_payloadLen (s : State) (w : Width) (ofs : Nat) : (s.hostRead w ofs).payloadLen = s.payloadLen := rfl
@[simp] theorem hostRead_ctrlOfs (s : State) (w : Width) (ofs : Nat) : (s.hostRead w ofs).ctrlOfs = s.ctrlOfs := rfl
@[simp] theorem hostRead_micLen (s : State) (w : Width) (ofs : Nat) : (s.hostRead w ofs).micLen = s.micLen := rfl
@[simp] theorem hostRead_hashOfs (s : State) (w : Width) (ofs : Nat) : (s.hostRead w ofs).hashOfs = s.hashOfs := rfl
@[simp] theorem hostRead_hashLen (s : State) (w : Width) (ofs : Nat) : (s.hostRead w ofs).hashLen = s.hashLen := rfl
@[simp] theorem hostRead_outLen (s : State) (w : Width) (ofs : Nat) : (s.hostRead w ofs).outLen = s.outLen := rfl
@[simp] theorem hostRead_krArg (s : State) (w : Width) (ofs : Nat) : (s.hostRead w ofs).krArg = s.krArg := rfl
@[simp] theorem hostRead_krProv (s : State) (w : Width) (ofs : Nat) : (s.hostRead w ofs).krProv = s.krProv := rfl
@[simp] theorem hostRead_krLabel (s : State) (w : Width) (ofs : Nat) : (s.hostRead w ofs).krLabel = s.krLabel := rfl
@[simp] theorem hostRead_resultInfo (s : State) (w : Width) (ofs : Nat) : (s.hostRead w ofs).resultInfo = s.resultInfo := rfl
@[simp] theorem hostRead_key (s : State) (w : Width) (ofs : Nat) : (s.hostRead w ofs).key = s.key := rfl
@[simp] theorem hostRead_blkIn (s : State) (w : Width) (ofs : Nat) : (s.hostRead w ofs).blkIn = s.blkIn := rfl
@[simp] theorem hostRead_blkOut (s : State) (w : Width) (ofs : Nat) : (s.hostRead w ofs).blkOut = s.blkOut := rfl
@[simp] theorem hostRead_nonce (s : State) (w : Width) (ofs : Nat) : (s.hostRead w ofs).nonce = s.nonce := rfl
@[simp] theorem hostRead_digest (s : State) (w : Width) (ofs : Nat) : (s.hostRead w ofs).digest = s.digest := rfl
@[simp] theorem hostRead_rdKey (s : State) (w : Width) (ofs : Nat) : (s.hostRead w ofs).rdKey = s.rdKey := rfl
@[simp] theorem hostRead_rdMeta (s : State) (w : Width) (ofs : Nat) : (s.hostRead w ofs).rdMeta = s.rdMeta := rfl
@[simp] theorem hostRead_rdProv (s : State) (w : Width) (ofs : Nat) : (s.hostRead w ofs).rdProv = s.rdProv := rfl
@[simp] theorem hostRead_rdLabel (s : State) (w : Width) (ofs : Nat) : (s.hostRead w ofs).rdLabel = s.rdLabel := rfl
@[simp] theorem hostRead_dbuf (s : State) (w : Width) (ofs : Nat) : (s.hostRead w ofs).dbuf = s.dbuf := rfl
@[simp] theorem hostRead_obuf (s : State) (w : Width) (ofs : Nat) : (s.hostRead w ofs).obuf = s.obuf := rfl
@[simp] theorem hostRead_ring (s : State) (w : Width) (ofs : Nat) : (s.hostRead w ofs).ring = s.ring := rfl
@[simp] theorem hostRead_cache (s : State) (w : Width) (ofs : Nat) : (s.hostRead w ofs).cache = s.cache := rfl
@[simp] theorem hostRead_epoch (s : State) (w : Width) (ofs : Nat) : (s.hostRead w ofs).epoch = s.epoch := rfl
@[simp] theorem hostRead_agenda (s : State) (w : Width) (ofs : Nat) : (s.hostRead w ofs).agenda = s.agenda := rfl
@[simp] theorem hostRead_readData (s : State) (w : Width) (ofs : Nat) : (s.hostRead w ofs).readData = s.busRead w ofs := rfl

/-! ### State.clearStatus -/

@[simp] theorem clearStatus_pending (s : State) (v : Word) : (s.clearStatus v).pending = s.pending := rfl
@[simp] theorem clearStatus_done (s : State) (v : Word) : (s.clearStatus v).done = (s.done && !v.getLsbD 1) := rfl
@[simp] theorem clearStatus_result (s : State) (v : Word) : (s.clearStatus v).result = s.result := rfl
@[simp] theorem clearStatus_detail (s : State) (v : Word) : (s.clearStatus v).detail = s.detail := rfl
@[simp] theorem clearStatus_werr (s : State) (v : Word) : (s.clearStatus v).werr = (s.werr && !v.getLsbD 16) := rfl
@[simp] theorem clearStatus_fcfull (s : State) (v : Word) : (s.clearStatus v).fcfull = (s.fcfull && !v.getLsbD 17) := rfl
@[simp] theorem clearStatus_aerr (s : State) (v : Word) : (s.clearStatus v).aerr = (s.aerr && !v.getLsbD 19) := rfl
@[simp] theorem clearStatus_config (s : State) (v : Word) : (s.clearStatus v).config = s.config := rfl
@[simp] theorem clearStatus_secCtrl (s : State) (v : Word) : (s.clearStatus v).secCtrl = s.secCtrl := rfl
@[simp] theorem clearStatus_frameCnt (s : State) (v : Word) : (s.clearStatus v).frameCnt = s.frameCnt := rfl
@[simp] theorem clearStatus_srcLo (s : State) (v : Word) : (s.clearStatus v).srcLo = s.srcLo := rfl
@[simp] theorem clearStatus_srcHi (s : State) (v : Word) : (s.clearStatus v).srcHi = s.srcHi := rfl
@[simp] theorem clearStatus_hdrFlags (s : State) (v : Word) : (s.clearStatus v).hdrFlags = s.hdrFlags := rfl
@[simp] theorem clearStatus_frameOfs (s : State) (v : Word) : (s.clearStatus v).frameOfs = s.frameOfs := rfl
@[simp] theorem clearStatus_aadLen (s : State) (v : Word) : (s.clearStatus v).aadLen = s.aadLen := rfl
@[simp] theorem clearStatus_payloadLen (s : State) (v : Word) : (s.clearStatus v).payloadLen = s.payloadLen := rfl
@[simp] theorem clearStatus_ctrlOfs (s : State) (v : Word) : (s.clearStatus v).ctrlOfs = s.ctrlOfs := rfl
@[simp] theorem clearStatus_micLen (s : State) (v : Word) : (s.clearStatus v).micLen = s.micLen := rfl
@[simp] theorem clearStatus_hashOfs (s : State) (v : Word) : (s.clearStatus v).hashOfs = s.hashOfs := rfl
@[simp] theorem clearStatus_hashLen (s : State) (v : Word) : (s.clearStatus v).hashLen = s.hashLen := rfl
@[simp] theorem clearStatus_outLen (s : State) (v : Word) : (s.clearStatus v).outLen = s.outLen := rfl
@[simp] theorem clearStatus_krArg (s : State) (v : Word) : (s.clearStatus v).krArg = s.krArg := rfl
@[simp] theorem clearStatus_krProv (s : State) (v : Word) : (s.clearStatus v).krProv = s.krProv := rfl
@[simp] theorem clearStatus_krLabel (s : State) (v : Word) : (s.clearStatus v).krLabel = s.krLabel := rfl
@[simp] theorem clearStatus_resultInfo (s : State) (v : Word) : (s.clearStatus v).resultInfo = s.resultInfo := rfl
@[simp] theorem clearStatus_key (s : State) (v : Word) : (s.clearStatus v).key = s.key := rfl
@[simp] theorem clearStatus_blkIn (s : State) (v : Word) : (s.clearStatus v).blkIn = s.blkIn := rfl
@[simp] theorem clearStatus_blkOut (s : State) (v : Word) : (s.clearStatus v).blkOut = s.blkOut := rfl
@[simp] theorem clearStatus_nonce (s : State) (v : Word) : (s.clearStatus v).nonce = s.nonce := rfl
@[simp] theorem clearStatus_digest (s : State) (v : Word) : (s.clearStatus v).digest = s.digest := rfl
@[simp] theorem clearStatus_rdKey (s : State) (v : Word) : (s.clearStatus v).rdKey = s.rdKey := rfl
@[simp] theorem clearStatus_rdMeta (s : State) (v : Word) : (s.clearStatus v).rdMeta = s.rdMeta := rfl
@[simp] theorem clearStatus_rdProv (s : State) (v : Word) : (s.clearStatus v).rdProv = s.rdProv := rfl
@[simp] theorem clearStatus_rdLabel (s : State) (v : Word) : (s.clearStatus v).rdLabel = s.rdLabel := rfl
@[simp] theorem clearStatus_dbuf (s : State) (v : Word) : (s.clearStatus v).dbuf = s.dbuf := rfl
@[simp] theorem clearStatus_obuf (s : State) (v : Word) : (s.clearStatus v).obuf = s.obuf := rfl
@[simp] theorem clearStatus_ring (s : State) (v : Word) : (s.clearStatus v).ring = s.ring := rfl
@[simp] theorem clearStatus_cache (s : State) (v : Word) : (s.clearStatus v).cache = s.cache := rfl
@[simp] theorem clearStatus_epoch (s : State) (v : Word) : (s.clearStatus v).epoch = s.epoch := rfl
@[simp] theorem clearStatus_agenda (s : State) (v : Word) : (s.clearStatus v).agenda = s.agenda := rfl
@[simp] theorem clearStatus_readData (s : State) (v : Word) : (s.clearStatus v).readData = s.readData := rfl

/-! ### State.rememberSuccess: only the cache and FCFULL may change -/

@[simp] theorem rememberSuccess_pending (s : State) (src : BitVec 64) (kid : KeyId) (slot : Byte) :
    (s.rememberSuccess src kid slot).pending = s.pending := by
  unfold State.rememberSuccess; repeat' split
  all_goals rfl
@[simp] theorem rememberSuccess_done (s : State) (src : BitVec 64) (kid : KeyId) (slot : Byte) :
    (s.rememberSuccess src kid slot).done = s.done := by
  unfold State.rememberSuccess; repeat' split
  all_goals rfl
@[simp] theorem rememberSuccess_result (s : State) (src : BitVec 64) (kid : KeyId) (slot : Byte) :
    (s.rememberSuccess src kid slot).result = s.result := by
  unfold State.rememberSuccess; repeat' split
  all_goals rfl
@[simp] theorem rememberSuccess_detail (s : State) (src : BitVec 64) (kid : KeyId) (slot : Byte) :
    (s.rememberSuccess src kid slot).detail = s.detail := by
  unfold State.rememberSuccess; repeat' split
  all_goals rfl
@[simp] theorem rememberSuccess_werr (s : State) (src : BitVec 64) (kid : KeyId) (slot : Byte) :
    (s.rememberSuccess src kid slot).werr = s.werr := by
  unfold State.rememberSuccess; repeat' split
  all_goals rfl
@[simp] theorem rememberSuccess_aerr (s : State) (src : BitVec 64) (kid : KeyId) (slot : Byte) :
    (s.rememberSuccess src kid slot).aerr = s.aerr := by
  unfold State.rememberSuccess; repeat' split
  all_goals rfl
@[simp] theorem rememberSuccess_config (s : State) (src : BitVec 64) (kid : KeyId) (slot : Byte) :
    (s.rememberSuccess src kid slot).config = s.config := by
  unfold State.rememberSuccess; repeat' split
  all_goals rfl
@[simp] theorem rememberSuccess_secCtrl (s : State) (src : BitVec 64) (kid : KeyId) (slot : Byte) :
    (s.rememberSuccess src kid slot).secCtrl = s.secCtrl := by
  unfold State.rememberSuccess; repeat' split
  all_goals rfl
@[simp] theorem rememberSuccess_frameCnt (s : State) (src : BitVec 64) (kid : KeyId) (slot : Byte) :
    (s.rememberSuccess src kid slot).frameCnt = s.frameCnt := by
  unfold State.rememberSuccess; repeat' split
  all_goals rfl
@[simp] theorem rememberSuccess_srcLo (s : State) (src : BitVec 64) (kid : KeyId) (slot : Byte) :
    (s.rememberSuccess src kid slot).srcLo = s.srcLo := by
  unfold State.rememberSuccess; repeat' split
  all_goals rfl
@[simp] theorem rememberSuccess_srcHi (s : State) (src : BitVec 64) (kid : KeyId) (slot : Byte) :
    (s.rememberSuccess src kid slot).srcHi = s.srcHi := by
  unfold State.rememberSuccess; repeat' split
  all_goals rfl
@[simp] theorem rememberSuccess_hdrFlags (s : State) (src : BitVec 64) (kid : KeyId) (slot : Byte) :
    (s.rememberSuccess src kid slot).hdrFlags = s.hdrFlags := by
  unfold State.rememberSuccess; repeat' split
  all_goals rfl
@[simp] theorem rememberSuccess_frameOfs (s : State) (src : BitVec 64) (kid : KeyId) (slot : Byte) :
    (s.rememberSuccess src kid slot).frameOfs = s.frameOfs := by
  unfold State.rememberSuccess; repeat' split
  all_goals rfl
@[simp] theorem rememberSuccess_aadLen (s : State) (src : BitVec 64) (kid : KeyId) (slot : Byte) :
    (s.rememberSuccess src kid slot).aadLen = s.aadLen := by
  unfold State.rememberSuccess; repeat' split
  all_goals rfl
@[simp] theorem rememberSuccess_payloadLen (s : State) (src : BitVec 64) (kid : KeyId) (slot : Byte) :
    (s.rememberSuccess src kid slot).payloadLen = s.payloadLen := by
  unfold State.rememberSuccess; repeat' split
  all_goals rfl
@[simp] theorem rememberSuccess_ctrlOfs (s : State) (src : BitVec 64) (kid : KeyId) (slot : Byte) :
    (s.rememberSuccess src kid slot).ctrlOfs = s.ctrlOfs := by
  unfold State.rememberSuccess; repeat' split
  all_goals rfl
@[simp] theorem rememberSuccess_micLen (s : State) (src : BitVec 64) (kid : KeyId) (slot : Byte) :
    (s.rememberSuccess src kid slot).micLen = s.micLen := by
  unfold State.rememberSuccess; repeat' split
  all_goals rfl
@[simp] theorem rememberSuccess_hashOfs (s : State) (src : BitVec 64) (kid : KeyId) (slot : Byte) :
    (s.rememberSuccess src kid slot).hashOfs = s.hashOfs := by
  unfold State.rememberSuccess; repeat' split
  all_goals rfl
@[simp] theorem rememberSuccess_hashLen (s : State) (src : BitVec 64) (kid : KeyId) (slot : Byte) :
    (s.rememberSuccess src kid slot).hashLen = s.hashLen := by
  unfold State.rememberSuccess; repeat' split
  all_goals rfl
@[simp] theorem rememberSuccess_outLen (s : State) (src : BitVec 64) (kid : KeyId) (slot : Byte) :
    (s.rememberSuccess src kid slot).outLen = s.outLen := by
  unfold State.rememberSuccess; repeat' split
  all_goals rfl
@[simp] theorem rememberSuccess_krArg (s : State) (src : BitVec 64) (kid : KeyId) (slot : Byte) :
    (s.rememberSuccess src kid slot).krArg = s.krArg := by
  unfold State.rememberSuccess; repeat' split
  all_goals rfl
@[simp] theorem rememberSuccess_krProv (s : State) (src : BitVec 64) (kid : KeyId) (slot : Byte) :
    (s.rememberSuccess src kid slot).krProv = s.krProv := by
  unfold State.rememberSuccess; repeat' split
  all_goals rfl
@[simp] theorem rememberSuccess_krLabel (s : State) (src : BitVec 64) (kid : KeyId) (slot : Byte) :
    (s.rememberSuccess src kid slot).krLabel = s.krLabel := by
  unfold State.rememberSuccess; repeat' split
  all_goals rfl
@[simp] theorem rememberSuccess_resultInfo (s : State) (src : BitVec 64) (kid : KeyId) (slot : Byte) :
    (s.rememberSuccess src kid slot).resultInfo = s.resultInfo := by
  unfold State.rememberSuccess; repeat' split
  all_goals rfl
@[simp] theorem rememberSuccess_key (s : State) (src : BitVec 64) (kid : KeyId) (slot : Byte) :
    (s.rememberSuccess src kid slot).key = s.key := by
  unfold State.rememberSuccess; repeat' split
  all_goals rfl
@[simp] theorem rememberSuccess_blkIn (s : State) (src : BitVec 64) (kid : KeyId) (slot : Byte) :
    (s.rememberSuccess src kid slot).blkIn = s.blkIn := by
  unfold State.rememberSuccess; repeat' split
  all_goals rfl
@[simp] theorem rememberSuccess_blkOut (s : State) (src : BitVec 64) (kid : KeyId) (slot : Byte) :
    (s.rememberSuccess src kid slot).blkOut = s.blkOut := by
  unfold State.rememberSuccess; repeat' split
  all_goals rfl
@[simp] theorem rememberSuccess_nonce (s : State) (src : BitVec 64) (kid : KeyId) (slot : Byte) :
    (s.rememberSuccess src kid slot).nonce = s.nonce := by
  unfold State.rememberSuccess; repeat' split
  all_goals rfl
@[simp] theorem rememberSuccess_digest (s : State) (src : BitVec 64) (kid : KeyId) (slot : Byte) :
    (s.rememberSuccess src kid slot).digest = s.digest := by
  unfold State.rememberSuccess; repeat' split
  all_goals rfl
@[simp] theorem rememberSuccess_rdKey (s : State) (src : BitVec 64) (kid : KeyId) (slot : Byte) :
    (s.rememberSuccess src kid slot).rdKey = s.rdKey := by
  unfold State.rememberSuccess; repeat' split
  all_goals rfl
@[simp] theorem rememberSuccess_rdMeta (s : State) (src : BitVec 64) (kid : KeyId) (slot : Byte) :
    (s.rememberSuccess src kid slot).rdMeta = s.rdMeta := by
  unfold State.rememberSuccess; repeat' split
  all_goals rfl
@[simp] theorem rememberSuccess_rdProv (s : State) (src : BitVec 64) (kid : KeyId) (slot : Byte) :
    (s.rememberSuccess src kid slot).rdProv = s.rdProv := by
  unfold State.rememberSuccess; repeat' split
  all_goals rfl
@[simp] theorem rememberSuccess_rdLabel (s : State) (src : BitVec 64) (kid : KeyId) (slot : Byte) :
    (s.rememberSuccess src kid slot).rdLabel = s.rdLabel := by
  unfold State.rememberSuccess; repeat' split
  all_goals rfl
@[simp] theorem rememberSuccess_dbuf (s : State) (src : BitVec 64) (kid : KeyId) (slot : Byte) :
    (s.rememberSuccess src kid slot).dbuf = s.dbuf := by
  unfold State.rememberSuccess; repeat' split
  all_goals rfl
@[simp] theorem rememberSuccess_obuf (s : State) (src : BitVec 64) (kid : KeyId) (slot : Byte) :
    (s.rememberSuccess src kid slot).obuf = s.obuf := by
  unfold State.rememberSuccess; repeat' split
  all_goals rfl
@[simp] theorem rememberSuccess_ring (s : State) (src : BitVec 64) (kid : KeyId) (slot : Byte) :
    (s.rememberSuccess src kid slot).ring = s.ring := by
  unfold State.rememberSuccess; repeat' split
  all_goals rfl
@[simp] theorem rememberSuccess_epoch (s : State) (src : BitVec 64) (kid : KeyId) (slot : Byte) :
    (s.rememberSuccess src kid slot).epoch = s.epoch := by
  unfold State.rememberSuccess; repeat' split
  all_goals rfl
@[simp] theorem rememberSuccess_agenda (s : State) (src : BitVec 64) (kid : KeyId) (slot : Byte) :
    (s.rememberSuccess src kid slot).agenda = s.agenda := by
  unfold State.rememberSuccess; repeat' split
  all_goals rfl
@[simp] theorem rememberSuccess_readData (s : State) (src : BitVec 64) (kid : KeyId) (slot : Byte) :
    (s.rememberSuccess src kid slot).readData = s.readData := by
  unfold State.rememberSuccess; repeat' split
  all_goals rfl

/-! ### What an aligned write while idle never changes: the state only the core writes, and the model's own -/

@[simp] theorem writeLoc_pending (s : State) (l : Loc) (b : Byte) : (s.writeLoc l b).pending = s.pending := by
  cases l with
  | reg r k => cases r <;> rfl
  | array a i => cases a <;> rfl
  | dbuf _ | obuf _ | reserved => rfl

@[simp] theorem storeBytes_pending (s : State) (ofs : Nat) (v : Word) (n : Nat) :
    (s.storeBytes ofs v n).pending = s.pending := by
  induction n with
  | zero => rfl
  | succ n ih => rw [State.storeBytes, writeLoc_pending, ih]

@[simp] theorem writeLoc_result (s : State) (l : Loc) (b : Byte) : (s.writeLoc l b).result = s.result := by
  cases l with
  | reg r k => cases r <;> rfl
  | array a i => cases a <;> rfl
  | dbuf _ | obuf _ | reserved => rfl

@[simp] theorem storeBytes_result (s : State) (ofs : Nat) (v : Word) (n : Nat) :
    (s.storeBytes ofs v n).result = s.result := by
  induction n with
  | zero => rfl
  | succ n ih => rw [State.storeBytes, writeLoc_result, ih]

@[simp] theorem writeLoc_detail (s : State) (l : Loc) (b : Byte) : (s.writeLoc l b).detail = s.detail := by
  cases l with
  | reg r k => cases r <;> rfl
  | array a i => cases a <;> rfl
  | dbuf _ | obuf _ | reserved => rfl

@[simp] theorem storeBytes_detail (s : State) (ofs : Nat) (v : Word) (n : Nat) :
    (s.storeBytes ofs v n).detail = s.detail := by
  induction n with
  | zero => rfl
  | succ n ih => rw [State.storeBytes, writeLoc_detail, ih]

@[simp] theorem writeLoc_outLen (s : State) (l : Loc) (b : Byte) : (s.writeLoc l b).outLen = s.outLen := by
  cases l with
  | reg r k => cases r <;> rfl
  | array a i => cases a <;> rfl
  | dbuf _ | obuf _ | reserved => rfl

@[simp] theorem storeBytes_outLen (s : State) (ofs : Nat) (v : Word) (n : Nat) :
    (s.storeBytes ofs v n).outLen = s.outLen := by
  induction n with
  | zero => rfl
  | succ n ih => rw [State.storeBytes, writeLoc_outLen, ih]

@[simp] theorem writeLoc_resultInfo (s : State) (l : Loc) (b : Byte) : (s.writeLoc l b).resultInfo = s.resultInfo := by
  cases l with
  | reg r k => cases r <;> rfl
  | array a i => cases a <;> rfl
  | dbuf _ | obuf _ | reserved => rfl

@[simp] theorem storeBytes_resultInfo (s : State) (ofs : Nat) (v : Word) (n : Nat) :
    (s.storeBytes ofs v n).resultInfo = s.resultInfo := by
  induction n with
  | zero => rfl
  | succ n ih => rw [State.storeBytes, writeLoc_resultInfo, ih]

@[simp] theorem writeLoc_blkOut (s : State) (l : Loc) (b : Byte) : (s.writeLoc l b).blkOut = s.blkOut := by
  cases l with
  | reg r k => cases r <;> rfl
  | array a i => cases a <;> rfl
  | dbuf _ | obuf _ | reserved => rfl

@[simp] theorem storeBytes_blkOut (s : State) (ofs : Nat) (v : Word) (n : Nat) :
    (s.storeBytes ofs v n).blkOut = s.blkOut := by
  induction n with
  | zero => rfl
  | succ n ih => rw [State.storeBytes, writeLoc_blkOut, ih]

@[simp] theorem writeLoc_digest (s : State) (l : Loc) (b : Byte) : (s.writeLoc l b).digest = s.digest := by
  cases l with
  | reg r k => cases r <;> rfl
  | array a i => cases a <;> rfl
  | dbuf _ | obuf _ | reserved => rfl

@[simp] theorem storeBytes_digest (s : State) (ofs : Nat) (v : Word) (n : Nat) :
    (s.storeBytes ofs v n).digest = s.digest := by
  induction n with
  | zero => rfl
  | succ n ih => rw [State.storeBytes, writeLoc_digest, ih]

@[simp] theorem writeLoc_rdKey (s : State) (l : Loc) (b : Byte) : (s.writeLoc l b).rdKey = s.rdKey := by
  cases l with
  | reg r k => cases r <;> rfl
  | array a i => cases a <;> rfl
  | dbuf _ | obuf _ | reserved => rfl

@[simp] theorem storeBytes_rdKey (s : State) (ofs : Nat) (v : Word) (n : Nat) :
    (s.storeBytes ofs v n).rdKey = s.rdKey := by
  induction n with
  | zero => rfl
  | succ n ih => rw [State.storeBytes, writeLoc_rdKey, ih]

@[simp] theorem writeLoc_rdMeta (s : State) (l : Loc) (b : Byte) : (s.writeLoc l b).rdMeta = s.rdMeta := by
  cases l with
  | reg r k => cases r <;> rfl
  | array a i => cases a <;> rfl
  | dbuf _ | obuf _ | reserved => rfl

@[simp] theorem storeBytes_rdMeta (s : State) (ofs : Nat) (v : Word) (n : Nat) :
    (s.storeBytes ofs v n).rdMeta = s.rdMeta := by
  induction n with
  | zero => rfl
  | succ n ih => rw [State.storeBytes, writeLoc_rdMeta, ih]

@[simp] theorem writeLoc_rdProv (s : State) (l : Loc) (b : Byte) : (s.writeLoc l b).rdProv = s.rdProv := by
  cases l with
  | reg r k => cases r <;> rfl
  | array a i => cases a <;> rfl
  | dbuf _ | obuf _ | reserved => rfl

@[simp] theorem storeBytes_rdProv (s : State) (ofs : Nat) (v : Word) (n : Nat) :
    (s.storeBytes ofs v n).rdProv = s.rdProv := by
  induction n with
  | zero => rfl
  | succ n ih => rw [State.storeBytes, writeLoc_rdProv, ih]

@[simp] theorem writeLoc_rdLabel (s : State) (l : Loc) (b : Byte) : (s.writeLoc l b).rdLabel = s.rdLabel := by
  cases l with
  | reg r k => cases r <;> rfl
  | array a i => cases a <;> rfl
  | dbuf _ | obuf _ | reserved => rfl

@[simp] theorem storeBytes_rdLabel (s : State) (ofs : Nat) (v : Word) (n : Nat) :
    (s.storeBytes ofs v n).rdLabel = s.rdLabel := by
  induction n with
  | zero => rfl
  | succ n ih => rw [State.storeBytes, writeLoc_rdLabel, ih]

@[simp] theorem writeLoc_obuf (s : State) (l : Loc) (b : Byte) : (s.writeLoc l b).obuf = s.obuf := by
  cases l with
  | reg r k => cases r <;> rfl
  | array a i => cases a <;> rfl
  | dbuf _ | obuf _ | reserved => rfl

@[simp] theorem storeBytes_obuf (s : State) (ofs : Nat) (v : Word) (n : Nat) :
    (s.storeBytes ofs v n).obuf = s.obuf := by
  induction n with
  | zero => rfl
  | succ n ih => rw [State.storeBytes, writeLoc_obuf, ih]

@[simp] theorem writeLoc_ring (s : State) (l : Loc) (b : Byte) : (s.writeLoc l b).ring = s.ring := by
  cases l with
  | reg r k => cases r <;> rfl
  | array a i => cases a <;> rfl
  | dbuf _ | obuf _ | reserved => rfl

@[simp] theorem storeBytes_ring (s : State) (ofs : Nat) (v : Word) (n : Nat) :
    (s.storeBytes ofs v n).ring = s.ring := by
  induction n with
  | zero => rfl
  | succ n ih => rw [State.storeBytes, writeLoc_ring, ih]

@[simp] theorem writeLoc_cache (s : State) (l : Loc) (b : Byte) : (s.writeLoc l b).cache = s.cache := by
  cases l with
  | reg r k => cases r <;> rfl
  | array a i => cases a <;> rfl
  | dbuf _ | obuf _ | reserved => rfl

@[simp] theorem storeBytes_cache (s : State) (ofs : Nat) (v : Word) (n : Nat) :
    (s.storeBytes ofs v n).cache = s.cache := by
  induction n with
  | zero => rfl
  | succ n ih => rw [State.storeBytes, writeLoc_cache, ih]

@[simp] theorem writeLoc_epoch (s : State) (l : Loc) (b : Byte) : (s.writeLoc l b).epoch = s.epoch := by
  cases l with
  | reg r k => cases r <;> rfl
  | array a i => cases a <;> rfl
  | dbuf _ | obuf _ | reserved => rfl

@[simp] theorem storeBytes_epoch (s : State) (ofs : Nat) (v : Word) (n : Nat) :
    (s.storeBytes ofs v n).epoch = s.epoch := by
  induction n with
  | zero => rfl
  | succ n ih => rw [State.storeBytes, writeLoc_epoch, ih]

@[simp] theorem writeLoc_agenda (s : State) (l : Loc) (b : Byte) : (s.writeLoc l b).agenda = s.agenda := by
  cases l with
  | reg r k => cases r <;> rfl
  | array a i => cases a <;> rfl
  | dbuf _ | obuf _ | reserved => rfl

@[simp] theorem storeBytes_agenda (s : State) (ofs : Nat) (v : Word) (n : Nat) :
    (s.storeBytes ofs v n).agenda = s.agenda := by
  induction n with
  | zero => rfl
  | succ n ih => rw [State.storeBytes, writeLoc_agenda, ih]

@[simp] theorem writeLoc_readData (s : State) (l : Loc) (b : Byte) : (s.writeLoc l b).readData = s.readData := by
  cases l with
  | reg r k => cases r <;> rfl
  | array a i => cases a <;> rfl
  | dbuf _ | obuf _ | reserved => rfl

@[simp] theorem storeBytes_readData (s : State) (ofs : Nat) (v : Word) (n : Nat) :
    (s.storeBytes ofs v n).readData = s.readData := by
  induction n with
  | zero => rfl
  | succ n ih => rw [State.storeBytes, writeLoc_readData, ih]

end Sys2Proof.Machine
end

