-- ==== Sys2Proof/Laws/KeyRing.lean ====
section
/-! SUPPORT. What remember_success can do, and the shape of the candidate list (spec R110, R113). -/

namespace Sys2Proof.Machine

theorem isFlow_iff (e : FlowEntry) (src : BitVec 64) (kid : KeyId) :
    e.isFlow src kid = true ↔ e.src = src ∧ e.kid = kid := by
  simp [FlowEntry.isFlow]

@[simp] theorem overwriteFlow_length (src : BitVec 64) (kid : KeyId) (slot : Byte) (c : List FlowEntry) :
    (overwriteFlow src kid slot c).length = c.length := by
  induction c with
  | nil => rfl
  | cons e rest ih => simp only [overwriteFlow]; split <;> simp [ih]

/-- Overwriting changes no flow, only a slot. -/
theorem overwriteFlow_flows (src : BitVec 64) (kid : KeyId) (slot : Byte) (c : List FlowEntry) :
    (overwriteFlow src kid slot c).map (fun e => (e.src, e.kid)) = c.map (fun e => (e.src, e.kid)) := by
  induction c with
  | nil => rfl
  | cons e rest ih => simp only [overwriteFlow]; split <;> simp [ih]

theorem mem_overwriteFlow {src : BitVec 64} {kid : KeyId} {slot : Byte} {c : List FlowEntry} {e : FlowEntry}
    (h : e ∈ overwriteFlow src kid slot c) : e.slot = slot ∨ e ∈ c := by
  induction c with
  | nil => exact .inr h
  | cons d rest ih =>
    simp only [overwriteFlow] at h
    split at h
    · rcases List.mem_cons.mp h with rfl | h
      · exact .inl rfl
      · exact .inr (List.mem_cons_of_mem _ h)
    · rcases List.mem_cons.mp h with rfl | h
      · exact .inr (List.mem_cons_self ..)
      · exact (ih h).imp_right (List.mem_cons_of_mem _)

/-- The three things remember_success can do (spec R110). -/
theorem rememberSuccess_cases (s : State) (src : BitVec 64) (kid : KeyId) (slot : Byte) :
    ((∃ e ∈ s.cache, e.src = src ∧ e.kid = kid)
      ∧ s.rememberSuccess src kid slot = { s with cache := overwriteFlow src kid slot s.cache })
    ∨ ((∀ e ∈ s.cache, ¬ (e.src = src ∧ e.kid = kid)) ∧ s.cache.length < Config.fcSlots
      ∧ s.rememberSuccess src kid slot = { s with cache := s.cache ++ [⟨src, kid, slot⟩] })
    ∨ ((∀ e ∈ s.cache, ¬ (e.src = src ∧ e.kid = kid)) ∧ ¬ s.cache.length < Config.fcSlots
      ∧ s.rememberSuccess src kid slot = { s with fcfull := true }) := by
  unfold State.rememberSuccess State.cached State.fcCount
  by_cases h : (s.cache.find? (·.isFlow src kid)).isSome
  · obtain ⟨e, he, hf⟩ := List.find?_isSome.mp h
    exact .inl ⟨⟨e, he, (isFlow_iff e src kid).mp hf⟩, by rw [if_pos h]⟩
  · have hn : ∀ e ∈ s.cache, ¬ (e.src = src ∧ e.kid = kid) := fun e he hf =>
      h (List.find?_isSome.mpr ⟨e, he, (isFlow_iff e src kid).mpr hf⟩)
    by_cases hl : s.cache.length < Config.fcSlots
    · exact .inr (.inl ⟨hn, hl, by rw [if_neg h, if_pos hl]⟩)
    · exact .inr (.inr ⟨hn, hl, by rw [if_neg h, if_neg hl]⟩)

/-- The cache after a success is remembered; it depends on the cache before alone. -/
theorem rememberSuccess_cache (s : State) (src : BitVec 64) (kid : KeyId) (slot : Byte) :
    (s.rememberSuccess src kid slot).cache =
      if (s.cache.find? (·.isFlow src kid)).isSome then overwriteFlow src kid slot s.cache
      else if s.cache.length < Config.fcSlots then s.cache ++ [⟨src, kid, slot⟩] else s.cache := by
  unfold State.rememberSuccess State.cached State.fcCount
  split_ifs <;> rfl

/-- The slots a test selects, each with its entry. -/
theorem mem_slotsWhere {test : KeyEntry → Bool} {n k : Nat} {l : List KeyEntry} :
    k ∈ slotsWhere test n l ↔ n ≤ k ∧ ∃ e, l[k - n]? = some e ∧ test e = true := by
  induction l generalizing n with
  | nil => simp [slotsWhere]
  | cons d rest ih =>
    have step : (n + 1 ≤ k ∧ ∃ e, rest[k - (n + 1)]? = some e ∧ test e = true)
        ↔ (n < k ∧ ∃ e, (d :: rest)[k - n]? = some e ∧ test e = true) := by
      refine and_congr_right fun hk => ?_
      have e : k - n = (k - (n + 1)) + 1 := by omega
      rw [e, List.getElem?_cons_succ]
    simp only [slotsWhere]
    split <;> rename_i ht
    · rw [List.mem_cons, ih, step]
      constructor
      · rintro (rfl | ⟨hk, hx⟩)
        · exact ⟨Nat.le_refl _, d, by simp, ht⟩
        · exact ⟨Nat.le_of_lt hk, hx⟩
      · rintro ⟨hk, hx⟩
        rcases Nat.eq_or_lt_of_le hk with rfl | hk
        · exact .inl rfl
        · exact .inr ⟨hk, hx⟩
    · rw [ih, step]
      constructor
      · exact fun ⟨hk, hx⟩ => ⟨Nat.le_of_lt hk, hx⟩
      · rintro ⟨hk, e, he, hte⟩
        rcases Nat.eq_or_lt_of_le hk with rfl | hk
        · simp only [Nat.sub_self, List.getElem?_cons_zero, Option.some.injEq] at he
          exact absurd (he ▸ hte) ht
        · exact ⟨hk, e, he, hte⟩

/-- Two tests no entry passes both of select together at most as many slots as there are entries. -/
theorem slotsWhere_lengths (p q : KeyEntry → Bool) (h : ∀ e, ¬ (p e = true ∧ q e = true)) (n m : Nat)
    (l : List KeyEntry) : (slotsWhere p n l).length + (slotsWhere q m l).length ≤ l.length := by
  induction l generalizing n m with
  | nil => simp [slotsWhere]
  | cons d rest ih =>
    have hr := ih (n + 1) (m + 1)
    simp only [slotsWhere]
    split <;> rename_i hp <;> split <;> rename_i hq <;> simp only [List.length_cons]
    · exact absurd ⟨hp, hq⟩ (h d)
    all_goals omega

/-- The list has at most 1 + KR_COUNT candidates (spec R113). -/
theorem candidatesFor_length (s : State) (src : BitVec 64) (kid : KeyId) :
    (s.candidatesFor src kid).length ≤ 1 + s.krCount := by
  have h := slotsWhere_lengths (·.sniffedFor kid) (·.isPreconfigured)
    (fun e => by cases he : e.origin <;> simp [KeyEntry.sniffedFor, KeyEntry.isPreconfigured, he]) 0 0 s.ring
  unfold State.candidatesFor State.krCount
  split <;> simp at h ⊢ <;> omega

/-- How the candidate loop ends: the first candidate that succeeds, or none (spec R124). -/
theorem tryCandidates_cases (f : Nat → Option Bytes) (n : Nat) (cs : List Candidate) :
    (∃ before c after out, cs = before ++ c :: after ∧ (∀ b ∈ before, f b.slot = none) ∧ f c.slot = some out
      ∧ tryCandidates f n cs = .decrypted c (n + before.length + 1) out)
    ∨ ((∀ c ∈ cs, f c.slot = none) ∧ tryCandidates f n cs = .exhausted (n + cs.length)) := by
  induction cs generalizing n with
  | nil => exact .inr ⟨by simp, rfl⟩
  | cons c rest ih =>
    simp only [tryCandidates]
    cases hc : f c.slot with
    | some out => exact .inl ⟨[], c, rest, out, by simp, by simp, hc, by simp⟩
    | none =>
      rcases ih (n + 1) with ⟨before, c', after, out, rfl, hb, ho, ht⟩ | ⟨hn, ht⟩
      · refine .inl ⟨c :: before, c', after, out, rfl, ?_, ho, ?_⟩
        · simpa [hc] using hb
        · simp only [ht, List.length_cons]
          congr 1
          omega
      · refine .inr ⟨by simpa [hc] using hn, ?_⟩
        simp only [ht, List.length_cons]
        congr 1
        omega

/-- Overwriting a flow's slot keeps the flows distinct (spec R115). -/
theorem overwriteFlow_distinct (src : BitVec 64) (kid : KeyId) (slot : Byte) {c : List FlowEntry}
    (h : c.Pairwise fun x y => ¬ (x.src = y.src ∧ x.kid = y.kid)) :
    (overwriteFlow src kid slot c).Pairwise fun x y => ¬ (x.src = y.src ∧ x.kid = y.kid) := by
  have hm : (c.map fun e => (e.src, e.kid)).Pairwise (· ≠ ·) := by
    rw [List.pairwise_map]
    exact h.imp fun hh => by simpa [Prod.ext_iff] using hh
  rw [← overwriteFlow_flows src kid slot c, List.pairwise_map] at hm
  exact hm.imp fun hh => by simpa [Prod.ext_iff] using hh

/-- Every candidate names a slot of the ring, when every cache entry does (spec R115). -/
theorem candidatesFor_slot_lt {s : State} (h : ∀ e ∈ s.cache, e.slot.toNat < s.ring.length) {src : BitVec 64}
    {kid : KeyId} {c : Candidate} (hc : c ∈ s.candidatesFor src kid) : c.slot < s.ring.length := by
  have slots : ∀ test k, k ∈ slotsWhere test 0 s.ring → k < s.ring.length := by
    intro test k hk
    obtain ⟨_, e, he, _⟩ := mem_slotsWhere.1 hk
    simpa using (List.getElem?_eq_some_iff.1 he).1
  simp only [State.candidatesFor, List.mem_append, List.mem_map] at hc
  rcases hc with (hc | ⟨k, hk, rfl⟩) | ⟨k, hk, rfl⟩
  · split at hc
    · rename_i e he
      rw [List.mem_singleton.1 hc]
      exact h e (List.mem_of_find?_eq_some he)
    · exact absurd hc (List.not_mem_nil)
  · exact slots _ k hk
  · exact slots _ k hk

end Sys2Proof.Machine
end

