-- ==== Sys2Proof/Laws/Commands.lean ====
section
/-! SUPPORT. One lemma for each command that branches, saying every way it can end. -/

namespace Sys2Proof.Machine

/-- The check list stops at one of its checks, which fails, or at none. -/
theorem firstFailure_cases (cs : List Check) :
    (∃ c ∈ cs, c.fails = true ∧ firstFailure cs = some c) ∨ firstFailure cs = none := by
  cases h : firstFailure cs with
  | none => exact .inr rfl
  | some c => exact .inl ⟨c, (firstFailure_some h).1, (firstFailure_some h).2, rfl⟩

/-- Every way HASH can end (spec R85). -/
theorem execHash_cases (s : State) :
    (∃ c ∈ hashChecks s, c.fails = true ∧ execHash s = .next (s.finish c.code c.detail))
    ∨ ((∀ c ∈ hashChecks s, c.fails = false)
      ∧ execHash s
        = .next (State.finish { s with digest := mmoHash (s.dbufRead s.hashOfs.toNat s.hashLen.toNat) } .ok 0)) := by
  unfold execHash
  obtain ⟨c, hc, hf, h⟩ | h := firstFailure_cases (hashChecks s)
  · exact .inl ⟨c, hc, hf, by rw [h]⟩
  · exact .inr ⟨firstFailure_none h, by rw [h]⟩

/-- Every way CCM_DEC can end (spec R104). -/
theorem execCcmDec_cases (s : State) :
    (∃ c ∈ ccmChecks true s, c.fails = true ∧ execCcmDec s = .next (s.finish c.code c.detail))
    ∨ ((∀ c ∈ ccmChecks true s, c.fails = false) ∧ execCcmDec s = .next (s.withhold.finish .authFail 0))
    ∨ ((∀ c ∈ ccmChecks true s, c.fails = false) ∧ ∃ m : Bytes, m.length = s.ccmTextLen true
      ∧ execCcmDec s = .next ((s.deliver m).finish .ok 0)) := by
  unfold execCcmDec
  obtain ⟨c, hc, hf, h⟩ | h := firstFailure_cases (ccmChecks true s)
  · exact .inl ⟨c, hc, hf, by rw [h]⟩
  · rw [h]
    dsimp only
    split
    · exact .inr (.inl ⟨firstFailure_none h, rfl⟩)
    · rename_i m hm
      refine .inr (.inr ⟨firstFailure_none h, m, ?_, rfl⟩)
      rw [ccmDecrypt_length hm]
      simp [State.ccmTextLen]

/-- Every way CCM_ENC can end (spec R105). -/
theorem execCcmEnc_cases (s : State) :
    (∃ c ∈ ccmChecks false s, c.fails = true ∧ execCcmEnc s = .next (s.finish c.code c.detail))
    ∨ ((∀ c ∈ ccmChecks false s, c.fails = false) ∧ ∃ out : Bytes, out.length = s.payloadLen.toNat + s.micLen.toNat
      ∧ execCcmEnc s = .next ((s.deliver out).finish .ok 0)) := by
  unfold execCcmEnc
  obtain ⟨c, hc, hf, h⟩ | h := firstFailure_cases (ccmChecks false s)
  · exact .inl ⟨c, hc, hf, by rw [h]⟩
  · rw [h]
    refine .inr ⟨firstFailure_none h, _, ?_, rfl⟩
    have hm := firstFailure_none h _ (List.mem_cons_self ..)
    rw [ccmEncrypt_length _ _ _ _ (by simpa using hm), payload_length]

/-- Every way FC_REMEMBER can end (spec R111). -/
theorem execFcRemember_cases (s : State) :
    (s.ring.length ≤ s.krArg.slot.toNat ∧ execFcRemember s = .next (s.finish .badSlot 0))
    ∨ (s.krArg.slot.toNat < s.ring.length ∧ s.hdrFlags.srcValid = false
      ∧ execFcRemember s = .next (s.finish .noSrc 0))
    ∨ (s.krArg.slot.toNat < s.ring.length ∧ s.hdrFlags.srcValid = true
      ∧ execFcRemember s
        = .next ((s.rememberSuccess s.src (ctrlKeyId s.secCtrl) s.krArg.slot).finish .ok 0)) := by
  unfold execFcRemember fcChecks State.krCount
  by_cases h1 : s.ring.length ≤ s.krArg.slot.toNat
  · exact .inl ⟨h1, by simp [h1]⟩
  · cases h2 : s.hdrFlags.srcValid
    · exact .inr (.inl ⟨by omega, rfl, by simp [h1]⟩)
    · exact .inr (.inr ⟨by omega, rfl, by simp [h1]⟩)

/-- Every way DECRYPT_FRAME can end, once RESULT_INFO is cleared (spec R128). -/
theorem decryptFrame_cases (s : State) :
    (∃ c ∈ frameChecks s, c.fails = true ∧ s.decryptFrame = s.finish c.code c.detail)
    ∨ (∀ c ∈ frameChecks s, c.fails = false)
      ∧ ((s.level = .none ∧ s.decryptFrame = (s.deliver s.frameText).finish .passThru 0)
        ∨ (s.level ≠ .none ∧ s.hdrFlags.srcValid = false ∧ s.decryptFrame = s.frameNoSource)
        ∨ (s.level ≠ .none ∧ s.hdrFlags.srcValid = true
          ∧ ∃ before c after out, s.candidatesFor s.src s.frameKeyId = before ++ c :: after
            ∧ (∀ b ∈ before, s.attempt b.slot = none) ∧ s.attempt c.slot = some out
            ∧ s.decryptFrame = s.frameDecrypted c (before.length + 1) out)
        ∨ (s.level ≠ .none ∧ s.hdrFlags.srcValid = true
          ∧ (∀ c ∈ s.candidatesFor s.src s.frameKeyId, s.attempt c.slot = none)
          ∧ s.decryptFrame = s.frameExhausted (s.candidatesFor s.src s.frameKeyId).length)) := by
  unfold State.decryptFrame
  obtain ⟨c, hc, hf, h⟩ | h := firstFailure_cases (frameChecks s)
  · exact .inl ⟨c, hc, hf, by rw [h]⟩
  · rw [h]
    refine .inr ⟨firstFailure_none h, ?_⟩
    by_cases hl : s.level = .none
    · exact .inl ⟨hl, by simp [hl]⟩
    · cases hv : s.hdrFlags.srcValid
      · exact .inr (.inl ⟨hl, rfl, by simp [hl]⟩)
      · obtain ⟨before, c, after, out, h1, h2, h3, h4⟩ | ⟨h1, h2⟩ :=
          tryCandidates_cases s.attempt 0 (s.candidatesFor s.src s.frameKeyId)
        · exact .inr (.inr (.inl ⟨hl, rfl, before, c, after, out, h1, h2, h3, by simp [hl, State.tryFrame, h4]⟩))
        · exact .inr (.inr (.inr ⟨hl, rfl, h1, by simp [hl, State.tryFrame, h2]⟩))

/-! ### The guards as inequalities, and the frame's regions as DBUF reads -/

theorem counterOverflows_iff (n : Nat) : counterOverflows n = true ↔ 2 ^ 16 < 1 + (n + 15) / 16 := decide_eq_true_iff

theorem lengthFieldOverflows_iff (M a b : Nat) :
    lengthFieldOverflows M a b = true ↔ 0 < M ∧ (0xFFFF < a ∨ 0xFFFF < b) := by simp [lengthFieldOverflows]

theorem tagLengths_encrypting {s : State} (h : s.level.encrypts = true) :
    s.tagLengths = (s.aadLen.toNat, s.frameTextLen) := by simp [State.tagLengths, h]

theorem tagLengths_integrityOnly {s : State} (h : s.level.encrypts = false) :
    s.tagLengths = (s.aadLen.toNat + s.frameTextLen, 0) := by simp [State.tagLengths, h]

/-- A prefix of a DBUF read is the shorter DBUF read. -/
theorem dbufRead_take (s : State) {ofs k n : Nat} (h : k ≤ n) : (s.dbufRead ofs n).take k = s.dbufRead ofs k := by
  simp [State.dbufRead, ← List.map_take, List.take_range, h]

/-- The rest of a DBUF read is the DBUF read from where the prefix ends. -/
theorem dbufRead_drop (s : State) (ofs k n : Nat) : (s.dbufRead ofs n).drop k = s.dbufRead (ofs + k) (n - k) := by
  apply List.ext_getElem
  · simp
  · intro i h1 h2
    simp [State.dbufRead]
    congr 1
    omega

theorem frameText_eq (s : State) :
    s.frameText = s.dbufRead (s.frameOfs.toNat + s.aadLen.toNat) (s.payloadLen.toNat - s.level.micLen) :=
  dbufRead_take s (Nat.sub_le ..)

theorem frameTag_eq (s : State) (h : s.level.micLen ≤ s.payloadLen.toNat) :
    s.frameTag
      = s.dbufRead (s.frameOfs.toNat + s.aadLen.toNat + (s.payloadLen.toNat - s.level.micLen)) s.level.micLen := by
  unfold State.frameTag State.payload State.frameTextLen
  rw [dbufRead_drop]
  congr 1
  omega

/-- The first check of DECRYPT_FRAME that fails, by the inequalities of spec R118. -/
theorem firstFailure_frameChecks (s : State) : firstFailure (frameChecks s) =
    if s.payloadLen.toNat < s.level.micLen then
      some ⟨decide (s.payloadLen.toNat < s.level.micLen), .structErr, 1⟩
    else if s.level.encrypts = true ∧ 2 ^ 16 < 1 + (s.payloadLen.toNat - s.level.micLen + 15) / 16 then
      some ⟨s.level.encrypts && counterOverflows s.frameTextLen, .structErr, 2⟩
    else if 0 < s.level.micLen ∧
        (if s.level.encrypts then 0xFFFF < s.aadLen.toNat ∨ 0xFFFF < s.payloadLen.toNat - s.level.micLen
         else 0xFFFF < s.aadLen.toNat + (s.payloadLen.toNat - s.level.micLen)) then
      some ⟨lengthFieldOverflows s.level.micLen s.tagLengths.1 s.tagLengths.2, .structErr, 3⟩
    else if Config.dbufSize < s.frameOfs.toNat + s.aadLen.toNat + s.payloadLen.toNat then
      some ⟨decide (Config.dbufSize < s.frameEnd), .bounds, 1⟩
    else if Config.obufSize < s.payloadLen.toNat - s.level.micLen then
      some ⟨decide (Config.obufSize < s.frameTextLen), .bounds, 2⟩
    else none := by
  have text : s.frameTextLen = s.payloadLen.toNat - s.level.micLen := rfl
  have stop : s.frameEnd = s.frameOfs.toNat + s.aadLen.toNat + s.payloadLen.toNat := rfl
  unfold frameChecks
  simp only [firstFailure_cons, firstFailure_nil, Bool.and_eq_true, counterOverflows_iff, lengthFieldOverflows_iff,
    decide_eq_true_eq]
  rw [text, stop]
  obtain he | he := Bool.eq_false_or_eq_true s.level.encrypts
  · simp only [he, tagLengths_encrypting he, text, if_true]
  · simp only [he, tagLengths_integrityOnly he, text]
    simp

end Sys2Proof.Machine
end

