-- ==== Sys2Proof/Laws/Host.lean ====
section
/-! SUPPORT. What the step does on each item of the schedule, what a host access does, and that every step is
one of a short list of moves. -/

namespace Sys2Proof.Machine

/-! ### The step, by the agenda's first item -/

theorem step_nil {s : State} (h : s.agenda = []) : step s = engineTurn s := by simp [step, advance, h]

theorem step_cons {s : State} {e : HostEvent} {rest : List HostEvent} (h : s.agenda = e :: rest) :
    step s = perform e { s with agenda := rest } := by simp [step, advance, h]

theorem perform_read {s : State} {w : Width} {ofs : Nat} (h : ofs < 0x3000) :
    perform (.read w ofs) s = .next (s.hostRead w ofs) := by simp [perform, inWindow, windowSize, h]

theorem perform_write {s : State} {w : Width} {ofs : Nat} {v : Word} (h : ofs < 0x3000) :
    perform (.write w ofs v) s = .next (s.hostWrite w ofs v) := by simp [perform, inWindow, windowSize, h]

@[simp] theorem perform_reset (s : State) : perform .reset s = .next s.assertReset := rfl

@[simp] theorem perform_engine (s : State) : perform .engine s = engineTurn s := rfl

theorem engineTurn_idle {s : State} (h : s.pending = none) : engineTurn s = .next s := by simp [engineTurn, h]

theorem engineTurn_pending {s : State} {w : Word} (h : s.pending = some w) : engineTurn s = complete w s := by
  simp [engineTurn, h]

/-- The engine's turn completes a command, or BAD_CMD, or finds nothing pending. -/
theorem engineTurn_cases (s : State) :
    (s.pending = none ∧ engineTurn s = .next s)
    ∨ (∃ w, s.pending = some w ∧ ((∃ i, decodeWord w = .ok i ∧ engineTurn s = exec i s)
        ∨ engineTurn s = .next (s.finish .badCmd 0))) := by
  cases hp : s.pending with
  | none => exact .inl ⟨rfl, engineTurn_idle hp⟩
  | some w =>
    refine .inr ⟨w, rfl, ?_⟩
    rw [engineTurn_pending hp, complete]
    cases decodeWord w with
    | ok i => exact .inl ⟨i, rfl, rfl⟩
    | error e => exact .inr rfl

/-! ### Host writes -/

theorem hostWrite_busy {s : State} (w : Width) (ofs : Nat) (v : Word) (h : s.busy = true) :
    s.hostWrite w ofs v = { s.noteAlignment w ofs with werr := true } := by simp [State.hostWrite, h]

theorem hostWrite_misaligned {s : State} {w : Width} {ofs : Nat} (v : Word) (h : s.busy = false)
    (ha : w.aligned ofs = false) : s.hostWrite w ofs v = s.noteAlignment w ofs := by
  simp [State.hostWrite, h, ha]

theorem hostWrite_command {s : State} (v : Word) (h : s.busy = false) : s.hostWrite .w32 0 v = s.issue v := by
  simp [State.hostWrite, h, Width.aligned, State.store, Reg.offset]

theorem hostWrite_store {s : State} {w : Width} {ofs : Nat} (v : Word) (h : s.busy = false)
    (ha : w.aligned ofs = true) (hc : ¬ (w = .w32 ∧ ofs = 0)) :
    s.hostWrite w ofs v = s.storeBytes ofs v w.bytes := by
  simp only [State.hostWrite, h, ha, State.store, Reg.offset, hc, if_false, if_true, Bool.false_eq_true]

/-- The four things a host write can be. -/
theorem hostWrite_cases (s : State) (w : Width) (ofs : Nat) (v : Word) :
    (s.busy = true ∧ s.hostWrite w ofs v = { s.noteAlignment w ofs with werr := true })
    ∨ (s.busy = false ∧ s.hostWrite w ofs v = s.noteAlignment w ofs)
    ∨ (s.busy = false ∧ s.hostWrite w ofs v = s.issue v)
    ∨ (s.busy = false ∧ s.hostWrite w ofs v = s.storeBytes ofs v w.bytes) := by
  cases h : s.busy
  · cases ha : w.aligned ofs
    · exact .inr (.inl ⟨rfl, hostWrite_misaligned v h ha⟩)
    · by_cases hc : w = .w32 ∧ ofs = 0
      · obtain ⟨rfl, rfl⟩ := hc
        exact .inr (.inr (.inl ⟨rfl, hostWrite_command v h⟩))
      · exact .inr (.inr (.inr ⟨rfl, hostWrite_store v h ha hc⟩))
  · exact .inl ⟨rfl, hostWrite_busy w ofs v h⟩

/-! ### Where the bytes of the window stand -/

theorem locate_dbuf {o : Nat} (h : o < Config.dbufSize) : locate (0x1000 + o) = .dbuf o := by
  have : o < 256 := h
  unfold locate dbufBase obufBase
  rw [if_neg (by omega), if_pos (by omega), Nat.add_sub_cancel_left, if_pos h]

theorem locate_obuf {o : Nat} (h : o < Config.obufSize) : locate (0x2000 + o) = .obuf o := by
  have : o < 256 := h
  unfold locate dbufBase obufBase windowSize
  rw [if_neg (by omega), if_neg (by omega), if_pos (by omega), Nat.add_sub_cancel_left, if_pos h]

theorem locate_register (r : Reg) {k : Nat} (h : k < 4) : locate (r.offset + k) = .reg r k := by
  cases r <;> interval_cases k <;> rfl

theorem locate_array (a : ArrayReg) {i : Nat} (h : i < a.size) : locate (a.base + i) = .array a i := by
  cases a <;> simp only [ArrayReg.size] at h <;> interval_cases i <;> rfl

theorem locateRegister_ne_dbuf (ofs i : Nat) : locateRegister ofs ≠ .dbuf i := by
  unfold locateRegister
  split
  · exact nofun
  · split <;> exact nofun

/-- A DBUF location lies in DBUF. -/
theorem locate_dbuf_bound {ofs i : Nat} (h : locate ofs = .dbuf i) : i < Config.dbufSize := by
  unfold locate at h
  split at h
  · exact absurd h (locateRegister_ne_dbuf ofs i)
  · split at h
    · split at h
      · rename_i hb
        exact Loc.dbuf.inj h ▸ hb
      · exact absurd h nofun
    · split at h
      · split at h <;> exact absurd h nofun
      · exact absurd h nofun

/-! ### What the host reads and writes there -/

theorem readByte_register (s : State) (r : Reg) {k : Nat} (h : k < 4) :
    s.readByte (r.offset + k) = lane (s.regWord r) k := by rw [State.readByte, locate_register r h, State.readLoc]

theorem readByte_array (s : State) (a : ArrayReg) {i : Nat} (h : i < a.size) :
    s.readByte (a.base + i) = (s.arrayBytes a).getD i 0 := by rw [State.readByte, locate_array a h, State.readLoc]

/-- The four lanes of a word, put together again. -/
theorem fromLe_lanes (w : Word) : BitVec.ofNat 32 (fromLe [lane w 0, lane w 1, lane w 2, lane w 3]) = w := by
  apply BitVec.eq_of_toNat_eq
  simp only [fromLe, lane, BitVec.toNat_ofNat, BitVec.extractLsb'_toNat, Nat.shiftRight_eq_div_pow]
  omega

theorem busRead_register (s : State) (r : Reg) : s.busRead .w32 r.offset = s.regWord r := by
  have ha : Width.aligned .w32 r.offset = true := by cases r <;> rfl
  have hr : List.range (Width.bytes .w32) = [0, 1, 2, 3] := rfl
  simp only [State.busRead, ha, if_true, hr, List.map_cons, List.map_nil]
  rw [readByte_register s r (by omega), readByte_register s r (by omega), readByte_register s r (by omega),
    readByte_register s r (by omega), fromLe_lanes]

/-- Four lanes written one after another make the word written. -/
theorem setLane_lanes (u v : Word) :
    setLane (setLane (setLane (setLane u 0 (lane v 0)) 1 (lane v 1)) 2 (lane v 2)) 3 (lane v 3) = v := by
  apply BitVec.eq_of_getLsbD_eq
  intro i hi
  simp only [setLane, inLane, lane]
  interval_cases i <;> simp

/-! ### Every step is one of these moves -/

/-- What a step that goes on has done: it took the agenda's first item, if there is one, and then completed or passed
the engine's turn, read, reset, or made one of the four kinds of write. -/
theorem step_cases {s t : State} (h : step s = .next t) :
    ∃ u : State, u = { s with agenda := s.agenda.tail } ∧
      ((t = u ∧ u.pending = none)
      ∨ (∃ w i, u.pending = some w ∧ decodeWord w = .ok i ∧ exec i u = .next t)
      ∨ (u.busy = true ∧ t = u.finish .badCmd 0)
      ∨ (∃ w ofs, t = u.hostRead w ofs)
      ∨ t = u.assertReset
      ∨ (∃ w ofs, u.busy = true ∧ t = { u.noteAlignment w ofs with werr := true })
      ∨ (∃ w ofs, u.busy = false ∧ t = u.noteAlignment w ofs)
      ∨ (∃ w, u.busy = false ∧ t = u.issue w)
      ∨ (∃ w ofs v, u.busy = false ∧ t = u.storeBytes ofs v (Width.bytes w))) := by
  refine ⟨_, rfl, ?_⟩
  generalize hu : ({ s with agenda := s.agenda.tail } : State) = u
  have engine : engineTurn u = .next t → (t = u ∧ u.pending = none)
      ∨ (∃ w i, u.pending = some w ∧ decodeWord w = .ok i ∧ exec i u = .next t)
      ∨ (u.busy = true ∧ t = u.finish .badCmd 0) := by
    intro he
    obtain ⟨hp, h1⟩ | ⟨w, hp, ⟨i, hd, h1⟩ | h1⟩ := engineTurn_cases u <;> rw [h1] at he
    · exact .inl ⟨(Host.Outcome.next.inj he).symm, hp⟩
    · exact .inr (.inl ⟨w, i, hp, hd, he⟩)
    · exact .inr (.inr ⟨by simp [State.busy, hp], (Host.Outcome.next.inj he).symm⟩)
  cases ha : s.agenda with
  | nil =>
    have : u = s := by subst hu; simp [ha]; cases s; simp_all
    rw [step_nil ha, ← this] at h
    obtain h | h | h := engine h
    · exact .inl h
    · exact .inr (.inl h)
    · exact .inr (.inr (.inl h))
  | cons e rest =>
    have hr : ({ s with agenda := rest } : State) = u := by simpa [ha] using hu
    rw [step_cons ha, hr] at h
    cases e with
    | engine =>
      obtain h | h | h := engine h
      · exact .inl h
      · exact .inr (.inl h)
      · exact .inr (.inr (.inl h))
    | reset => exact .inr (.inr (.inr (.inr (.inl (Host.Outcome.next.inj h).symm))))
    | read w ofs =>
      simp only [perform, inWindow] at h
      split at h
      · exact .inr (.inr (.inr (.inl ⟨w, ofs, (Host.Outcome.next.inj h).symm⟩)))
      · cases h
    | write w ofs v =>
      simp only [perform, inWindow] at h
      split at h
      · have h := (Host.Outcome.next.inj h).symm
        obtain ⟨hb, h1⟩ | ⟨hb, h1⟩ | ⟨hb, h1⟩ | ⟨hb, h1⟩ := hostWrite_cases u w ofs v <;> rw [h1] at h
        · exact .inr (.inr (.inr (.inr (.inr (.inl ⟨w, ofs, hb, h⟩)))))
        · exact .inr (.inr (.inr (.inr (.inr (.inr (.inl ⟨w, ofs, hb, h⟩))))))
        · exact .inr (.inr (.inr (.inr (.inr (.inr (.inr (.inl ⟨v, hb, h⟩)))))))
        · exact .inr (.inr (.inr (.inr (.inr (.inr (.inr (.inr ⟨w, ofs, v, hb, h⟩)))))))
      · cases h

end Sys2Proof.Machine
end

