-- ==== Sys2Proof/Laws/PerInstr.lean ====
section
/-! SUPPORT. The per-instruction family EncodesLegal: every instruction's encoding is a legal command word
(spec R57), four bytes long (spec R58). -/

namespace Sys2Proof.Laws.EncodesLegal

/-- The encoding is a legal command word of four bytes. -/
def Statement (i : Instr) : Prop := wellFormedWord (encodeWord i) = true ∧ (encode i).length = 4

theorem nop : Statement .nop := ⟨by decide, rfl⟩
theorem ecbEnc : Statement .ecbEnc := ⟨by decide, rfl⟩
theorem nonceBuild : Statement .nonceBuild := ⟨by decide, rfl⟩
theorem hash : Statement .hash := ⟨by decide, rfl⟩
theorem derive (sel : Byte) : Statement (.derive sel) := by
  refine ⟨?_, rfl⟩
  revert sel
  decide +kernel
theorem ccmDec : Statement .ccmDec := ⟨by decide, rfl⟩
theorem ccmEnc : Statement .ccmEnc := ⟨by decide, rfl⟩
theorem krLoad : Statement .krLoad := ⟨by decide, rfl⟩
theorem krClear : Statement .krClear := ⟨by decide, rfl⟩
theorem krRead : Statement .krRead := ⟨by decide, rfl⟩
theorem fcRemember : Statement .fcRemember := ⟨by decide, rfl⟩
theorem decryptFrame : Statement .decryptFrame := ⟨by decide, rfl⟩

end Sys2Proof.Laws.EncodesLegal
end

