-- ==== Sys2Proof/Tests/Slice0.lean ====
section
/-! SUPPORT. The model's own tests. Expected values come from spec/95_test_vectors.md (named in each comment) or
are worked out by hand from the rule named. Then one witness for each clause of each obligation that has hypotheses. -/

namespace Sys2Proof.Tests

open Sys2Proof Sys2Proof.Machine Sys2Proof.Spec

/-! ### Helpers: small states -/

/-- The state an outcome goes on to. -/
def nextOf : Host.Outcome State Fault Refusal → Option State
  | .next t => some t
  | .fault _ => none
  | .refused _ => none

/-- STATUS after one engine step on a command word. -/
def statusAfter (w : Word) (s : State) : Option Word :=
  (nextOf (step (s.withFetchWord 32 w.toNat))).map State.statusWord

/-- A block of one byte, 16 times. -/
def block (b : Byte) : Block := Vector.replicate 16 b

/-- DBUF with a byte string from offset 0. -/
def dbufOf (b : Bytes) : Memory := Memory.writeBytes [] 0 b

/-- The reset state with a schedule. -/
def scheduled (a : List HostEvent) : State := { State.reset with agenda := a }

/-- The reset state with a pending command and a schedule. -/
def pendingWith (w : Word) (a : List HostEvent) : State := { State.reset with pending := some w, agenda := a }

/-- A pre-configured LinkKey entry. -/
def linkKey (k : Block) : KeyEntry := ⟨k, .link, .preconfigured, 0, 0⟩

/-- The common operands of the CCM vectors (section 5): KEY 16 x 11, N, a = 01 .. 05, with the given text and MIC_LEN. -/
def ccmState (text : Bytes) (M : Byte) : State :=
  { State.reset with
    key := block 0x11
    nonce := #v[0x88, 0x77, 0x66, 0x55, 0x44, 0x33, 0x22, 0x11, 0x01, 0x00, 0x00, 0x00, 0x29]
    dbuf := dbufOf ([0x01, 0x02, 0x03, 0x04, 0x05] ++ text)
    aadLen := 5
    payloadLen := BitVec.ofNat 32 text.length
    micLen := M }

/-- Only the lengths and offsets of the V38 rows. -/
def ccmLengths (M : Byte) (ofs la lp : Word) : State :=
  { State.reset with micLen := M, frameOfs := ofs, aadLen := la, payloadLen := lp }

/-- The common operands of the orchestrator vectors (section 6), with a payload region, a level and a key ring. -/
def frameState (payload : Bytes) (level : BitVec 3) (ring : List KeyEntry) : State :=
  { State.reset with
    config := ⟨level, false⟩
    secCtrl := 0x29
    frameCnt := 1
    srcLo := 0x55667788
    srcHi := 0x11223344
    hdrFlags := ⟨true, false, 0⟩
    dbuf := dbufOf ([0x01, 0x02, 0x03, 0x04, 0x05] ++ payload)
    aadLen := 5
    payloadLen := BitVec.ofNat 32 payload.length
    ring := ring }

/-- The payload region of V40. -/
def payload40 : Bytes := [0xE8, 0x55, 0x8E, 0x63, 0xA6, 0x0D, 0xBE, 0xE6]

/-- The payload region of V41: CA FE and its tag. -/
def payload41 : Bytes := [0xCA, 0xFE, 0x89, 0xF6, 0x3A, 0x19]

/-- Lengths of a DECRYPT_FRAME at a level, for its checks. -/
def frameLengths (level : BitVec 3) (ofs la lp : Word) : State :=
  { State.reset with config := ⟨level, false⟩, frameOfs := ofs, aadLen := la, payloadLen := lp }

/-- SRC of the orchestrator vectors. -/
def src : BitVec 64 := 0x1122334455667788

/-! ### Well-formed words, decoding and encoding -/

/-- R57, V50: one ill-formed word for each of the three grounds, each refused by the check of its name. -/
theorem test_wellFormed_refuses :
    reservedZero 0x00010000 = false ∧ wellFormedWord 0x00010000 = false
      ∧ opcodeKnown 0x0000000C = false ∧ wellFormedWord 0x0000000C = false
      ∧ argAllowed 0x00000100 = false ∧ wellFormedWord 0x00000100 = false := by decide

/-- R56: the word of each row of the opcode table, written out. -/
theorem test_decode_rows :
    decodeWord 0x00000000 = .ok .nop ∧ decodeWord 0x00000001 = .ok .ecbEnc ∧ decodeWord 0x00000002 = .ok .nonceBuild
      ∧ decodeWord 0x00000003 = .ok .hash ∧ decodeWord 0x00000004 = .ok (.derive 0x00)
      ∧ decodeWord 0x00000204 = .ok (.derive 0x02) ∧ decodeWord 0x0000FF04 = .ok (.derive 0xFF)
      ∧ decodeWord 0x00000005 = .ok .ccmDec ∧ decodeWord 0x00000006 = .ok .ccmEnc ∧ decodeWord 0x00000007 = .ok .krLoad
      ∧ decodeWord 0x00000008 = .ok .krClear ∧ decodeWord 0x00000009 = .ok .krRead
      ∧ decodeWord 0x0000000A = .ok .fcRemember ∧ decodeWord 0x0000000B = .ok .decryptFrame := by decide

/-- R58, R43: a command's four bytes, least significant first; fewer are refused. -/
theorem test_decode_bytes :
    decode [0x04, 0x02, 0x00, 0x00, 0xAA] = .ok (.derive 0x02, [0xAA]) ∧ decode [0x00, 0x00, 0x00] = .error .truncated := by
  decide

/-- The host's table form of two rows, and of an ill-formed word. -/
theorem test_decodeTableWord :
    decodeTableWord 32 0x0000FF04 = some (.derive 0xFF) ∧ decodeTableWord 32 0x0000000B = some .decryptFrame
      ∧ decodeTableWord 32 0x0000000C = none := by decide

/-- No word belongs to two rows of the opcode table (R58). -/
theorem test_opcode_rows_disjoint :
    opcodeTable.Pairwise fun x y => x.pattern &&& (x.mask &&& y.mask) ≠ y.pattern &&& (x.mask &&& y.mask) := by decide

/-- V50: STATUS after each ill-formed word. -/
theorem test_bad_command_V50 :
    [0x00000100, 0x0000000C, 0x000000FF, 0x00010000, 0x8000000B].all
      (fun w => statusAfter w State.reset == some 0x00000082) = true := by decide

/-! ### One step of each command -/

/-- V50: NOP. -/
theorem test_nop_V50 : statusAfter 0x00000000 State.reset = some 0x00000002 := by decide

/-- V1 (FIPS-197 C.1), from the command word. -/
theorem test_ecbEnc_V1 :
    (nextOf (step (State.withFetchWord { State.reset with
      key := #v[0x00, 0x01, 0x02, 0x03, 0x04, 0x05, 0x06, 0x07, 0x08, 0x09, 0x0A, 0x0B, 0x0C, 0x0D, 0x0E, 0x0F]
      blkIn := #v[0x00, 0x11, 0x22, 0x33, 0x44, 0x55, 0x66, 0x77, 0x88, 0x99, 0xAA, 0xBB, 0xCC, 0xDD, 0xEE, 0xFF] } 32 1))).map
      State.blkOut
    = some #v[0x69, 0xC4, 0xE0, 0xD8, 0x6A, 0x7B, 0x04, 0x30, 0xD8, 0xCD, 0xB7, 0x80, 0x70, 0xB4, 0xC5, 0x5A] := by
  decide +kernel

/-- V6: round key 10 of 00 01 .. 0F. -/
theorem test_key_expansion_V6 :
    ((roundKeys
      #v[0x00, 0x01, 0x02, 0x03, 0x04, 0x05, 0x06, 0x07, 0x08, 0x09, 0x0A, 0x0B, 0x0C, 0x0D, 0x0E, 0x0F]).map
      unloadState).getLast?
    = some #v[0x13, 0x11, 0x1D, 0x7F, 0xE3, 0x94, 0x4A, 0x17, 0xF3, 0x07, 0xA7, 0x8B, 0x4D, 0x2B, 0x30, 0xC5] := by
  decide +kernel

/-- V10. -/
theorem test_nonceBuild_V10 :
    (nextOf (exec .nonceBuild (frameState [] 5 []))).map State.nonce
    = some #v[0x88, 0x77, 0x66, 0x55, 0x44, 0x33, 0x22, 0x11, 0x01, 0x00, 0x00, 0x00, 0x2D] := by decide +kernel

/-- V13. -/
theorem test_nonceBuild_V13 : statusAfter 0x00000002 State.reset = some 0x00000042 := by decide

/-- V21: the published example of the one byte C0. -/
theorem test_hash_V21 :
    (nextOf (exec .hash { State.reset with dbuf := dbufOf [0xC0], hashLen := 1 })).map State.digest
    = some #v[0xAE, 0x3A, 0x10, 0x2A, 0x28, 0xD4, 0x3E, 0xE0, 0xD4, 0xA0, 0x9E, 0x22, 0x78, 0x8B, 0x20, 0x6C] := by
  decide +kernel

/-- V24: the rows that end at a check. -/
theorem test_hash_V24 :
    [(0x00000000, 8191, 0x00000172), (0x00000000, 8192, 0x00000432), (0x000000FF, 2, 0x00000172),
     (0x00000101, 0, 0x00000172), (0xFFFFFFFF, 1, 0x00000172)].all
      (fun (o, n, st) => statusAfter 0x00000003 { State.reset with hashOfs := o, hashLen := n } == some st) = true := by
  decide +kernel

/-- V26: the LoadKey selector. -/
theorem test_derive_V26 :
    (nextOf (exec (.derive 0x02) { State.reset with key := block 0x11 })).map State.digest
    = some #v[0xD3, 0x8C, 0xEA, 0x8F, 0x6E, 0xCB, 0xF0, 0xC6, 0x11, 0xE5, 0x50, 0xBE, 0xBA, 0x89, 0x41, 0x49] := by
  decide +kernel

/-- V30: CCM_DEC of the worked example. -/
theorem test_ccmDec_V30 :
    (nextOf (exec .ccmDec (ccmState [0xA6, 0x17, 0x79, 0x4F, 0x82, 0x54, 0xC2, 0x6D] 4))).map
      (fun t => (t.statusWord, t.outLen, t.obuf))
    = some (0x00000002, 4, [(0, 0xDE), (1, 0xAD), (2, 0xBE), (3, 0xEF)]) := by decide +kernel

/-- V38: rows a, b, d to h, j and m. -/
theorem test_ccmDec_V38 :
    [(4, 0, 5, 3, 0x00000132), (5, 0, 5, 3, 0x000000B2), (4, 0, 0x10000, 8, 0x00000332), (0, 0, 0x10000, 8, 0x00000172),
     (4, 0, 5, 0x10004, 0x00000332), (0, 0, 0, 1048560, 0x00000172), (0, 0, 0, 1048561, 0x00000232),
     (4, 250, 5, 8, 0x00000172), (4, 0xFFFFFFFF, 5, 8, 0x00000172)].all
      (fun (M, o, la, lp, st) => statusAfter 0x00000005 (ccmLengths M o la lp) == some st) = true := by decide +kernel

/-- V33: CCM_ENC with the longest tag. -/
theorem test_ccmEnc_V33 :
    (nextOf (exec .ccmEnc (ccmState [0xDE, 0xAD, 0xBE, 0xEF] 16))).map (fun t => (t.outLen, t.obuf.map (·.2)))
    = some (20, [0xA6, 0x17, 0x79, 0x4F, 0x48, 0x9F, 0x55, 0x0B, 0x56, 0x9F, 0x73, 0x93, 0x9A, 0x73, 0xF6, 0xDA, 0xD7,
        0x3D, 0xF3, 0x62]) := by decide +kernel

/-- V38: rows i and k. -/
theorem test_ccmEnc_V38 :
    [(16, 0, 0, 1048561, 0x00000232), (16, 0, 0, 241, 0x00000272)].all
      (fun (M, o, la, lp, st) => statusAfter 0x00000006 (ccmLengths M o la lp) == some st) = true := by decide +kernel

/-- V49: what KR_LOAD appends, and where. -/
theorem test_krLoad_V49 :
    (nextOf (exec .krLoad { State.reset with
        key := block 0x11, krArg := ⟨1, true, 0⟩, krProv := 42, krLabel := 7 })).map
      (fun t => (t.ring, t.resultInfo.word))
    = some ([⟨block 0x11, .network, .sniffed, 42, 7⟩], 0x00000100) := by decide +kernel

/-- V47: the 33rd KR_LOAD. -/
theorem test_krLoad_full_V47 :
    statusAfter 0x00000007 { State.reset with ring := List.replicate 32 (linkKey (block 1)) } = some 0x00000092 := by
  decide +kernel

/-- V47: KR_CLEAR. -/
theorem test_krClear_V47 :
    (nextOf (exec .krClear { State.reset with ring := [linkKey (block 1)], cache := [⟨src, .link, 0⟩] })).map
      (fun t => (t.krCount, t.fcCount)) = some (0, 0) := by decide +kernel

/-- V49: RD_META of a sniffed NetworkKey. -/
theorem test_krRead_V49 :
    (nextOf (exec .krRead { State.reset with ring := [⟨block 0x11, .network, .sniffed, 42, 7⟩] })).map
      (fun t => (t.rdKey, t.rdMeta.word, t.rdProv, t.rdLabel)) = some (block 0x11, 0x0000000B, 42, 7) := by decide +kernel

/-- V49: a slot at KR_COUNT. -/
theorem test_krRead_badSlot_V49 :
    statusAfter 0x00000009 { State.reset with ring := [linkKey (block 1)], krArg := ⟨0, false, 1⟩ } = some 0x000000A2 := by
  decide +kernel

/-- V46: step 3 overwrites the flow's slot. -/
theorem test_fcRemember_V46 :
    (nextOf (exec .fcRemember { frameState [] 5 [linkKey (block 1), linkKey (block 2)] with
        krArg := ⟨0, false, 1⟩, cache := [⟨src, .network, 0⟩] })).map State.cache
    = some [⟨src, .network, 1⟩] := by decide +kernel

/-- V48: the 17th flow sets FCFULL and is dropped. -/
theorem test_fcRemember_full_V48 :
    statusAfter 0x0000000A { frameState [] 5 [linkKey (block 1)] with
      cache := (List.range 16).map fun n => ⟨BitVec.ofNat 64 (n + 1), .network, 0⟩ } = some 0x00020002 := by decide +kernel

/-- V40: the worked example through the orchestrator. -/
theorem test_decryptFrame_V40 :
    (nextOf (exec .decryptFrame (frameState payload40 5 [linkKey (block 0x11)]))).map
      (fun t => (t.statusWord, t.outLen, t.obuf.map (·.2), t.resultInfo.word, t.cache))
    = some (0x00000002, 4, [0xDE, 0xAD, 0xBE, 0xEF], 0x00010100, [⟨src, .network, 0⟩]) := by decide +kernel

/-- V42: a sniffed key tried first, as the TransportKey it derives. -/
theorem test_decryptFrame_V42 :
    (nextOf (exec .decryptFrame
      { frameState [0x7A, 0x80, 0xF0, 0xC8, 0x7B, 0x3D, 0x66, 0x4E] 5
          [linkKey (block 0x22), ⟨block 0x11, .link, .sniffed, 42, 0⟩] with secCtrl := 0x30, frameCnt := 7 })).map
      (fun t => (t.obuf.map (·.2), t.resultInfo.word, t.cache))
    = some ([0xDE, 0xAD, 0xBE, 0xEF], 0x00010101, [⟨src, .transport, 1⟩]) := by decide +kernel

/-! ### Host accesses and the placing of a command -/

/-- V51: a write while busy. -/
theorem test_write_while_busy_V51 :
    nextOf (step (pendingWith 1 [.write .w32 0x060 0xFFFFFFFF]))
    = some { pendingWith 1 [] with werr := true } := by decide +kernel

/-- V52: a misaligned read, and an aligned 16-bit write of KEY[2] and KEY[3]. -/
theorem test_alignment_V52 :
    (nextOf (step (scheduled [.read .w32 0x006]))).map (fun t => (t.readData, t.statusWord)) = some (0, 0x00080000)
      ∧ (nextOf (step (scheduled [.write .w16 0x062 0xBBAA]))).map (fun t => t.key.toList.take 5)
        = some [0x00, 0x00, 0xAA, 0xBB, 0x00] := by decide +kernel

/-- V53: IRQ rises with DONE, and falls when IE is cleared. -/
theorem test_irq_V53 :
    statusAfter 0x00000000 { State.reset with config := ⟨0, true⟩ } = some 0x00040002
      ∧ (nextOf (step { State.reset with
          done := true, config := ⟨0, true⟩, agenda := [.write .w32 0x008 0] })).map State.statusWord
        = some 0x00000002 := by decide +kernel

/-- V54: the words of the register map at reset, but for ID. -/
theorem test_reset_words_V54 :
    [0x004, 0x010, 0x014, 0x020, 0x034, 0x040, 0x044, 0x048, 0x054, 0x058, 0x060, 0x09C, 0x0A0, 0x0D0, 0x0DC].all
        (fun o => State.reset.busRead .w32 o == 0) = true
      ∧ State.reset.busRead .w32 0x008 = 0x00000005 ∧ State.reset.busRead .w32 0x030 = 0xFFFFFFFF := by decide +kernel

/-- The agenda of `run NOP` and of `wait` with two polls (R66). -/
theorem test_hostRun :
    hostRun .nop 2 = [.write .w32 0x000 0, .read .w32 0x004, .read .w32 0x004, .engine, .read .w32 0x004] := by decide

/-! ### Witnesses: states and operands that meet the hypotheses of each obligation, clause by clause -/

theorem witness_LegalWordsAreExactlyTheCommands :
    wellFormedWord 0x00010000 = false ∧ wellFormedWord 0x0000FF04 = true ∧ encodeWord (.derive 0xFF) = 0x0000FF04 := by
  decide

theorem witness_StepRunsThePendingCommand :
    (pendingWith 0x0B []).pending = some 0x0B ∧ decodeWord 0x0B = .ok .decryptFrame ∧ (pendingWith 0x0B []).agenda = []
      ∧ (pendingWith 0x0B [.engine, .reset]).agenda = .engine :: [.reset] := by decide

theorem witness_IllegalWordCompletesWithBadCmd :
    (pendingWith 0x0C []).pending = some 0x0C ∧ wellFormedWord 0x0C = false ∧ (pendingWith 0x0C []).agenda = []
      ∧ (pendingWith 0x0C [.engine]).agenda = .engine :: [] := by decide

/-- Idle and busy, and the offsets 0 and 3 at the ends of CMD. -/
theorem witness_CommandIssue :
    (let s := scheduled [.write .w32 0x000 7]; s.busy = false ∧ s.agenda = [.write .w32 0x000 7])
      ∧ (let s := pendingWith 1 [.write .w32 0x000 7]; s.busy = true ∧ s.agenda = [.write .w32 0x000 7])
      ∧ (let s := scheduled [.write .w8 0x003 7]; 0x003 < 4 ∧ s.busy = false ∧ s.agenda = [.write .w8 0x003 7])
      ∧ (let s := scheduled [.write .w16 0x000 7]; 0x000 < 4 ∧ s.busy = false ∧ s.agenda = [.write .w16 0x000 7])
      ∧ (let s := scheduled [.write .w16 0x003 7]; 0x003 < 4 ∧ s.busy = false ∧ s.agenda = [.write .w16 0x003 7]) := by
  decide

theorem witness_PendingCommandCompletesInBoundedSteps :
    ∃ s : State, s.busy = true ∧ (∀ e ∈ s.agenda, e ≠ .reset) ∧ s.agendaInWindow ∧ s.agenda.length = 2 :=
  ⟨pendingWith 7 [.read .w32 4, .write .w8 0x1000 1], by decide⟩

theorem witness_RunOfACommandSeesItsCompletion : State.reset.busy = false := rfl

theorem witness_DoneRisesOnlyByCompletion :
    ∃ t, step (pendingWith 0 []) = .next t ∧ t.done = true := ⟨_, rfl, rfl⟩

/-- Busy; the last offset of the window for an aligned byte, and misaligned accesses at both ends. -/
theorem witness_WriteWhileBusyIsDiscarded :
    (let s := pendingWith 1 [.write .w8 0x2FFF 0];
      s.busy = true ∧ 0x2FFF < 0x3000 ∧ s.agenda = [.write .w8 0x2FFF 0] ∧ 0x2FFF % Width.w8.bytes = 0)
      ∧ (let s := pendingWith 1 [.write .w32 0x2FFF 0];
        s.busy = true ∧ s.agenda = [.write .w32 0x2FFF 0] ∧ 0x2FFF % Width.w32.bytes ≠ 0)
      ∧ (let s := pendingWith 1 [.write .w16 0x001 0];
        s.busy = true ∧ s.agenda = [.write .w16 0x001 0] ∧ 0x001 % Width.w16.bytes ≠ 0) := by decide

theorem witness_MisalignedAccessIsDiscarded :
    0x2FFD % Width.w32.bytes ≠ 0 ∧ 0x2FFD < 0x3000 ∧ (scheduled [.write .w32 0x2FFD 9]).busy = false
      ∧ (scheduled [.write .w32 0x2FFD 9]).agenda = [.write .w32 0x2FFD 9]
      ∧ (scheduled [.read .w32 0x2FFD]).agenda = [.read .w32 0x2FFD] := by decide

/-- The last word of the window; full tables; the last byte of an array and of each buffer. -/
theorem witness_ReadsHaveNoSideEffects :
    0x2FFC % Width.w32.bytes = 0 ∧ 0x2FFC < 0x3000 ∧ (scheduled [.read .w32 0x2FFC]).agenda = [.read .w32 0x2FFC]
      ∧ (List.replicate 32 (linkKey (block 1))).length ≤ Config.krSlots
      ∧ (List.replicate 16 (⟨src, .link, 0⟩ : FlowEntry)).length ≤ Config.fcSlots
      ∧ (0x0D8, State.reset.rdLabel) ∈ registerWords State.reset
      ∧ (0x090, State.reset.nonce.toList) ∈ arrayBytesAt State.reset ∧ 12 < State.reset.nonce.toList.length
      ∧ 255 < Config.dbufSize ∧ 255 < Config.obufSize := by decide +kernel

/-- Idle; the first and last read-write words, and the last byte of DBUF; the last registers of the write list. -/
theorem witness_WritesReadBack :
    (scheduled [.write .w32 0x008 1]).busy = false ∧ (0x008, 0x00000107) ∈ writableWords
      ∧ (0x09C, 0x000000FF) ∈ writableWords ∧ 255 < Config.dbufSize
      ∧ (scheduled [.write .w8 (0x1000 + 255) 1]).agenda = [.write .w8 (0x1000 + 255) 1]
      ∧ (0x008, { State.reset with config := ⟨7, true⟩ }) ∈ registerWrites State.reset 0x00000107
      ∧ (0x050, { State.reset with krLabel := 9 }) ∈ registerWrites State.reset 9 := by decide +kernel

/-- The clauses on every width: the top byte of HDR_FLAGS, and the last aligned access of each array and of DBUF. -/
theorem witness_WritesReadBack_widths :
    0x022 % Width.w16.bytes = 0 ∧ (0x020, 0x0000FF03) ∈ writableWords ∧ 1 < Width.w16.bytes ∧ 0x020 ≤ 0x022 + 1
      ∧ 0x022 + 1 < 0x020 + 4 ∧ (scheduled [.write .w16 0x022 1]).agenda = [.write .w16 0x022 1]
      ∧ 0x06E % Width.w16.bytes = 0 ∧ 0x060 ≤ 0x06E ∧ 0x06E < 0x070
      ∧ 0x07F % Width.w8.bytes = 0 ∧ 0x070 ≤ 0x07F ∧ 0x07F < 0x080
      ∧ 0x09C % Width.w32.bytes = 0 ∧ 0x090 ≤ 0x09C ∧ 0x09C < 0x09D
      ∧ 0x10FC % Width.w32.bytes = 0 ∧ 0x1000 ≤ 0x10FC ∧ 0x10FC < 0x1000 + Config.dbufSize := by decide

/-- Idle; a 16-bit write of 0x062, with the byte before it and the byte after it. -/
theorem witness_WriteChangesOnlyCoveredBytes :
    (scheduled [.write .w16 0x062 1]).busy = false ∧ 0x062 % Width.w16.bytes = 0 ∧ 0x061 < 0x062
      ∧ 0x062 + Width.w16.bytes ≤ 0x064 ∧ ¬ (Width.w16 = .w32 ∧ 0x062 = 0) ∧ 0x061 ≠ 0x006 ∧ 0x064 ≠ 0x006 := by decide

/-- Idle; ID, the last reserved bytes, and both ends of the reserved ranges that read 0. -/
theorem witness_ReadOnlyAndReservedIgnoreWrites :
    (scheduled [.write .w32 0x00C 1]).busy = false ∧ (∀ k < Width.w32.bytes, readOnlyOffset (0x00C + k))
      ∧ (∀ k < Width.w8.bytes, readOnlyOffset (0x09D + k)) ∧ (∀ k < Width.w32.bytes, readOnlyOffset (0x2FFC + k))
      ∧ (0x05C ≤ 0x05F ∧ 0x05F < 0x060) ∧ 0x2000 + Config.obufSize ≤ 0x2100 := by
  have : Config.dbufSize = 256 := rfl
  refine ⟨rfl, fun k (hk : k < 4) => ?_, fun k (hk : k < 1) => ?_, fun k (hk : k < 4) => ?_, by decide, by decide⟩
  all_goals
    unfold readOnlyOffset
    omega

/-- Idle; the whole register, its upper half and its last byte, each written with its own ones. -/
theorem witness_StatusWriteClearsOnes :
    (scheduled [.write .w32 0x004 2]).busy = false ∧ (scheduled [.write .w32 0x004 2]).agenda = [.write .w32 0x004 2]
      ∧ 0x004 % Width.w32.bytes = 0 ∧ 0x006 % Width.w16.bytes = 0 ∧ 0x007 % Width.w8.bytes = 0 ∧ 0x007 < 0x008
      ∧ writesOne .w32 0x004 2 1 = true ∧ writesOne .w16 0x006 8 19 = true ∧ writesOne .w8 0x007 0xFF 19 = false := by
  decide

theorem witness_WindowPlacement :
    (∃ addr, addr < Config.coreBase ∨ Config.coreBase + 0x3000 ≤ addr)
      ∧ (scheduled [.read .w8 0x3000]).agenda = [.read .w8 0x3000]
      ∧ (scheduled [.write .w8 0x3000 1]).agenda = [.write .w8 0x3000 1] :=
  ⟨⟨Config.coreBase + 0x3000, .inr (Nat.le_refl _)⟩, rfl, rfl⟩

theorem witness_ResetValues : (pendingWith 0x0B [.reset]).agenda = .reset :: [] := rfl

/-- The reset state with a pending command meets the invariant, and it steps. -/
theorem witness_EveryStepKeepsTheInvariant :
    (pendingWith 0 []).Inv ∧ ∃ t, step (pendingWith 0 []) = .next t :=
  ⟨⟨by decide, by decide, by decide, by decide, by decide, by decide, by decide, by decide, by decide, by decide⟩,
    _, rfl⟩

theorem witness_StepAlwaysGoesOnInsideTheWindow :
    (scheduled [.read .w8 0x2FFF, .write .w32 0x000 0, .reset, .engine]).agendaInWindow := by decide

/-- A reset, a KR_CLEAR that completes, a KR_LOAD that completes, and a host access: neither of the first two. -/
theorem witness_KeyRingIsAppendOnly :
    (∃ t, step (pendingWith 0 [.reset]) = .next t) ∧ resetsNext (pendingWith 0 [.reset])
      ∧ (∃ t, step (pendingWith 8 []) = .next t) ∧ completesNext (pendingWith 8 []) .krClear
      ∧ (∃ t, step (pendingWith 7 [.engine]) = .next t) ∧ completesNext (pendingWith 7 [.engine]) .krLoad
      ∧ ¬ resetsNext (pendingWith 7 [.engine]) ∧ ¬ completesNext (pendingWith 7 [.engine]) .krClear
      ∧ ¬ resetsNext (scheduled [.read .w8 0]) ∧ ¬ completesNext (scheduled [.read .w8 0]) .krClear := by
  refine ⟨⟨_, rfl⟩, rfl, ⟨_, rfl⟩, ⟨.inl rfl, 8, rfl, rfl⟩, ⟨_, rfl⟩, ⟨.inr rfl, 7, rfl, rfl⟩, nofun, ?_, nofun, ?_⟩
  · rintro ⟨-, w, h, hd⟩
    obtain rfl : 7 = w := Option.some.inj h
    revert hd
    decide
  · rintro ⟨h | h, -⟩ <;> cases h

theorem witness_CommandsNeverWriteTheirOperands :
    ∃ t, exec .nop State.reset = .next t ∧ Instr.nop ≠ .nonceBuild := ⟨_, rfl, by decide⟩

theorem witness_EachResultHasItsWriters :
    ∃ t, exec .nop State.reset = .next t ∧ Instr.nop ≠ .ecbEnc ∧ (∀ sel, Instr.nop ≠ .derive sel)
      ∧ Instr.nop ≠ .decryptFrame := ⟨_, rfl, by decide, nofun, by decide⟩

/-- A delivered output, a check that fails, and a frame with no candidate. -/
theorem witness_OutputBytesLieBelowOutLen :
    (nextOf (exec .ccmDec (ccmState [0xA6, 0x17, 0x79, 0x4F, 0x82, 0x54, 0xC2, 0x6D] 4))).isSome = true
      ∧ (nextOf (exec .ccmEnc (ccmLengths 5 0 0 0))).map State.result = some .badMicLen
      ∧ (nextOf (exec .decryptFrame (frameState payload40 5 []))).map State.result = some .exhausted := by decide +kernel

theorem witness_SboxIsTheAffineMapOfTheInverse : (0x53 : Byte) ≠ 0 ∧ gfMul 0x53 0xCA = 1 := by decide

theorem witness_KeyExpansionRecurrence : 4 ≤ 43 ∧ 43 < 44 ∧ 43 % 4 ≠ 0 ∧ 40 % 4 = 0 := by decide

theorem witness_NonceBuildEffect :
    State.reset.hdrFlags.srcValid = false ∧ (frameState [] 5 []).hdrFlags.srcValid = true := by decide

/-- The longest input of the hash. -/
theorem witness_HashPadding : (List.replicate 8191 (0 : Byte)).length ≤ 8191 :=
  Nat.le_of_eq List.length_replicate

theorem witness_CcmDecEffect :
    (ccmLengths 4 0 5 8).micLen.toNat = 4 ∧ (ccmLengths 4 0 5 8).aadLen.toNat = 5
      ∧ (ccmLengths 4 0 5 8).payloadLen.toNat = 8 := by decide

theorem witness_CcmEncEffect :
    (ccmLengths 16 0 0 240).micLen.toNat = 16 ∧ (ccmLengths 16 0 0 240).aadLen.toNat = 0
      ∧ (ccmLengths 16 0 0 240).payloadLen.toNat = 240 := by decide

theorem witness_CounterModeByBytes : 16 < (List.replicate 17 (0 : Byte)).length ∧ 0xFFFF < 0x10000 := by decide

/-- The longest inputs, and a tag length of each clause. -/
theorem witness_AuthenticationInput :
    (16 = 4 ∨ 16 = 8 ∨ 16 = 16) ∧ 0xFFFF ≤ 0xFFFF ∧ ([0x01] : Bytes) ≠ []
      ∧ (List.replicate 0xFFFF (0 : Byte)).length ≤ 0xFFFF :=
  ⟨by decide, by decide, by decide, Nat.le_of_eq List.length_replicate⟩

theorem witness_CcmRoundTrip : (0 = 0 ∨ 0 = 4 ∨ 0 = 8 ∨ 0 = 16) ∧ (16 = 0 ∨ 16 = 4 ∨ 16 = 8 ∨ 16 = 16) := by decide

/-- V30 and its tampered tag of V36: the first verifies, the other has its length and differs. -/
theorem witness_OnlyTheRightTagVerifies :
    (ccmDecrypt (block 0x11)
      #v[0x88, 0x77, 0x66, 0x55, 0x44, 0x33, 0x22, 0x11, 0x01, 0x00, 0x00, 0x00, 0x29] [0x01, 0x02, 0x03, 0x04, 0x05]
      [0xA6, 0x17, 0x79, 0x4F] [0x82, 0x54, 0xC2, 0x6D]).isSome = true
      ∧ ([0x82, 0x54, 0xC2, 0x6C] : Bytes) ≠ [0x82, 0x54, 0xC2, 0x6D] := by decide +kernel

/-- An empty ring, and a ring whose slot 0 is named. -/
theorem witness_KrReadEffect :
    State.reset.ring.length ≤ State.reset.krArg.slot.toNat
      ∧ (frameState [] 5 [linkKey (block 1)]).ring[(frameState [] 5 [linkKey (block 1)]).krArg.slot.toNat]?
        = some (linkKey (block 1)) := by decide

theorem witness_RememberSuccessRule : ([⟨1, .link, 0⟩, ⟨1, .load, 0⟩] : List FlowEntry).Pairwise FlowEntry.differs := by
  decide

/-- A flow that the cache holds, a cache with room, and another flow of the same source. -/
theorem witness_RememberedKeyIsTheFirstCandidate :
    (∃ e ∈ ([⟨src, .network, 0⟩] : List FlowEntry), e.src = src ∧ e.kid = .network)
      ∧ State.reset.cache.length < Config.fcSlots ∧ ¬ (src = src ∧ KeyId.link = KeyId.network) := by decide

/-- M = 4 of 3 bytes; one counter block too many. -/
theorem witness_DecryptFrameChecks_1_2 :
    (frameLengths 5 0 0 3).level.micLen = 4 ∧ (frameLengths 5 0 0 3).payloadLen.toNat = 3 ∧ 3 < 4
      ∧ (frameLengths 4 0 0 1048561).level.micLen = 0 ∧ (frameLengths 4 0 0 1048561).payloadLen.toNat = 1048561
      ∧ (frameLengths 4 0 0 1048561).level.encrypts = true ∧ 0 ≤ 1048561 ∧ 2 ^ 16 < 1 + (1048561 - 0 + 15) / 16 := by
  decide

/-- One byte of associated data too many, at an encrypting and at an integrity-only level. -/
theorem witness_DecryptFrameChecks_3 :
    let s := frameLengths 5 0 0x10000 4
    let t := frameLengths 1 0 0xFFFF 5
    s.level.micLen = 4 ∧ s.aadLen.toNat = 0x10000 ∧ s.payloadLen.toNat = 4 ∧ 4 ≤ 4
      ∧ (s.level.encrypts = true → 1 + (4 - 4 + 15) / 16 ≤ 2 ^ 16)
      ∧ (if s.level.encrypts then 0xFFFF < 0x10000 ∨ 0xFFFF < 4 - 4 else 0xFFFF < 0x10000 + (4 - 4))
      ∧ t.level.micLen = 4 ∧ t.aadLen.toNat = 0xFFFF ∧ t.payloadLen.toNat = 5 ∧ 4 ≤ 5
      ∧ (t.level.encrypts = true → 1 + (5 - 4 + 15) / 16 ≤ 2 ^ 16)
      ∧ (if t.level.encrypts then 0xFFFF < 0xFFFF ∨ 0xFFFF < 5 - 4 else 0xFFFF < 0xFFFF + (5 - 4)) := by decide

/-- One byte past DBUF. -/
theorem witness_DecryptFrameChecks_4 :
    let s := frameLengths 5 1 252 4
    s.level.micLen = 4 ∧ s.aadLen.toNat = 252 ∧ s.payloadLen.toNat = 4 ∧ 4 ≤ 4
      ∧ (s.level.encrypts = true → 1 + (4 - 4 + 15) / 16 ≤ 2 ^ 16)
      ∧ (0 < 4 → if s.level.encrypts then 252 ≤ 0xFFFF ∧ 4 - 4 ≤ 0xFFFF else 252 + (4 - 4) ≤ 0xFFFF)
      ∧ Config.dbufSize < s.frameOfs.toNat + 252 + 4 := by decide

/-- Level None, an encrypting level and an integrity-only level, all checks passing; without a source address. -/
theorem witness_DecryptFrameWithoutTrial :
    frameChecksPass (frameState payload40 0 []) ∧ (frameState payload40 0 []).level = .none
      ∧ frameChecksPass (frameLengths 5 0 252 4) ∧ (frameLengths 5 0 252 4).level.encrypts = true
      ∧ frameChecksPass (frameLengths 3 0 240 16) ∧ (frameLengths 3 0 240 16).level.encrypts = false
      ∧ (frameLengths 5 0 252 4).level ≠ .none ∧ (frameLengths 3 0 240 16).level ≠ .none
      ∧ (frameLengths 5 0 252 4).hdrFlags.srcValid = false ∧ (frameLengths 3 0 240 16).hdrFlags.srcValid = false := by
  unfold frameChecksPass
  decide

/-- V40 with a wrong key in slot 0. -/
theorem witness_DecryptFrameFirstSuccess :
    let s := frameState payload40 5 [linkKey (block 0x22), linkKey (block 0x11)]
    frameChecksPass s ∧ s.level ≠ .none ∧ s.hdrFlags.srcValid = true
      ∧ s.candidatesFor (s.srcHi ++ s.srcLo) s.frameKeyId = [⟨0, false⟩] ++ ⟨1, false⟩ :: []
      ∧ s.attempt 0 = none ∧ s.attempt 1 = some [0xDE, 0xAD, 0xBE, 0xEF] := by
  unfold frameChecksPass
  decide +kernel

/-- V43 with one wrong key, and V41's second row. -/
theorem witness_DecryptFrameNoSuccess :
    let s := frameState payload40 5 [linkKey (block 0x22)]
    let t := frameState payload41 1 [linkKey (block 0x22)]
    frameChecksPass s ∧ s.level ≠ .none ∧ s.hdrFlags.srcValid = true ∧ s.level.encrypts = true
      ∧ (∀ c ∈ s.candidatesFor (s.srcHi ++ s.srcLo) s.frameKeyId, s.attempt c.slot = none)
      ∧ frameChecksPass t ∧ t.level ≠ .none ∧ t.hdrFlags.srcValid = true ∧ t.level.encrypts = false
      ∧ (∀ c ∈ t.candidatesFor (t.srcHi ++ t.srcLo) t.frameKeyId, t.attempt c.slot = none) := by
  unfold frameChecksPass
  decide +kernel

/-- V40's slot 0 at an encrypting level, and V41's at an integrity-only level. -/
theorem witness_AttemptRule :
    let s := frameState payload40 5 [linkKey (block 0x11)]
    let t := frameState payload41 1 [linkKey (block 0x11)]
    s.ring[0]? = some (linkKey (block 0x11)) ∧ s.level.micLen ≤ s.payloadLen.toNat ∧ s.level.encrypts = true
      ∧ t.ring[0]? = some (linkKey (block 0x11)) ∧ t.level.micLen ≤ t.payloadLen.toNat ∧ t.level.encrypts = false := by
  decide

theorem witness_DecryptFrameIgnoresSingleKeyRegisters : ∃ t, exec .decryptFrame State.reset = .next t := ⟨_, rfl⟩

/-- Another level in SEC_CTRL, its other bits equal. -/
theorem witness_ReceivedLevelAndKeySequenceAreNotRead :
    (0x2D : Byte).extractLsb' 3 5 = (frameState payload40 5 []).secCtrl.extractLsb' 3 5
      ∧ ∃ t, exec .decryptFrame (frameState payload40 5 []) = .next t := ⟨by decide, _, rfl⟩

/-- Every byte V40 reads is written, and no cache entry is stale. -/
theorem witness_WrittenInputsHideTheDraws :
    let s := frameState payload40 5 [linkKey (block 0x11)]
    (∀ e ∈ s.cache, e.slot.toNat < s.ring.length) ∧ s.inputWritten .decryptFrame ∧ ∃ t, exec .decryptFrame s = .next t := by
  refine ⟨by decide, ?_, _, rfl⟩
  show State.written _ _ _
  decide

/-- Each clause: a hash that fits, an OK and an AUTH_FAIL of CCM_DEC, an OK of CCM_ENC, a failing check of each command. -/
theorem witness_AesCallCounts :
    (let s : State := { State.reset with hashLen := 256 };
      8 * s.hashLen.toNat ≤ 0xFFFF ∧ s.hashOfs.toNat + s.hashLen.toNat ≤ Config.dbufSize)
      ∧ (nextOf (exec .ccmDec (ccmState [0xA6, 0x17, 0x79, 0x4F, 0x82, 0x54, 0xC2, 0x6D] 4))).map State.result = some .ok
      ∧ (nextOf (exec .ccmDec (ccmState [0xA6, 0x17, 0x79, 0x4F, 0x82, 0x54, 0xC2, 0x6C] 4))).map State.result
        = some .authFail
      ∧ (nextOf (exec .ccmEnc (ccmState [] 0))).map State.result = some .ok
      ∧ (nextOf (exec .hash { State.reset with hashLen := 8192 })).map State.result = some .structErr
      ∧ (nextOf (exec .ccmEnc (ccmLengths 5 0 0 0))).map State.result = some .badMicLen
      ∧ (nextOf (exec .decryptFrame (frameLengths 5 250 5 8))).map State.result = some .bounds
      ∧ frameChecksPass (frameState payload40 5 []) ∧ (frameState payload40 5 []).level ≠ .none
      ∧ (frameState payload40 5 []).hdrFlags.srcValid = true := by
  unfold frameChecksPass
  decide +kernel

end Sys2Proof.Tests
end

/-! PROOFS. The window and the status word (spec R13, R53). -/

namespace Sys2Proof.Machine

/-- The offset selected by a host address is its distance from CORE_BASE, below the window's size (spec R53). -/
theorem windowOffset_eq_some_iff (addr ofs : Nat) :
    windowOffset addr = some ofs ↔ addr = Config.coreBase + ofs ∧ ofs < windowSize := by
  simp only [windowOffset, Option.ite_none_right_eq_some, Option.some.injEq]
  omega

/-- An access outside the window is the model's one fault (log 5). -/
theorem inWindow_outside {ofs : Nat} (r : Result) (h : windowSize ≤ ofs) :
    inWindow ofs r = .fault (.outsideWindow ofs) :=
  if_neg (Nat.not_lt.mpr h)

/-- Settles O19: the two directions of the window's placement, and the fault of an access above it. -/
theorem windowPlacement : Obligations.WindowPlacement := by
  refine ⟨fun ofs h => (windowOffset_eq_some_iff _ _).mpr ⟨rfl, h⟩, fun addr h => ?_, fun s w ofs v rest h => ⟨?_, ?_⟩⟩
  · refine Option.eq_none_iff_forall_ne_some.mpr fun ofs hsome => ?_
    obtain ⟨rfl, hlt⟩ := (windowOffset_eq_some_iff _ _).mp hsome
    unfold windowSize at hlt
    omega
  · intro hread
    rw [step_cons hread, perform, inWindow_outside _ h]
  · intro hwrite
    rw [step_cons hwrite, perform, inWindow_outside _ h]

/-- The one-bit fields of the status word (spec R13, R144). -/
theorem statusWord_bits (s : State) :
    s.statusWord.getLsbD 0 = s.busy ∧ s.statusWord.getLsbD 1 = s.done
      ∧ s.statusWord.getLsbD 16 = s.werr ∧ s.statusWord.getLsbD 17 = s.fcfull
      ∧ s.statusWord.getLsbD 18 = s.irq ∧ s.statusWord.getLsbD 19 = s.aerr := by
  simp only [State.statusWord, bit, BitVec.getLsbD_append]
  simp

/-- RESULT, DETAIL and the reserved bits of the status word (spec R13). -/
theorem statusWord_fields (s : State) :
    s.statusWord.extractLsb' 2 2 = 0 ∧ s.statusWord.extractLsb' 4 4 = s.result.bits
      ∧ s.statusWord.extractLsb' 8 4 = s.detail ∧ s.statusWord.extractLsb' 12 4 = 0
      ∧ s.statusWord.extractLsb' 20 12 = 0 := by
  unfold State.statusWord bit
  generalize s.result.bits = r
  refine ⟨?_, ?_, ?_, ?_, ?_⟩
  all_goals
    refine BitVec.eq_of_getLsbD_eq fun i hi => ?_
    simp only [BitVec.getLsbD_extractLsb', BitVec.getLsbD_append]
    interval_cases i <;> simp

/-- Settles O11: the register read of STATUS and the fields of its word; the codes are those of `ResultCode.bits`. -/
theorem statusWordLayout : Obligations.StatusWordLayout :=
  ⟨fun s =>
    have ⟨hbusy, hdone, hwerr, hfcfull, hirq, haerr⟩ := statusWord_bits s
    have ⟨hlow, hresult, hdetail, hmid, hhigh⟩ := statusWord_fields s
    ⟨busRead_register s .status, hbusy, hdone, hlow, hresult, hdetail, hmid, hwerr, hfcfull, hirq, haerr, hhigh⟩,
   fun c => by cases c <;> rfl⟩

end Sys2Proof.Machine

/-! PROOFS. What each command may write, said once for all twelve, and the frames and the append-only tables that
follow from it (spec R16, R21, R24 to R33, R37, R129). -/

namespace Sys2Proof.Machine

open Sys2Proof.Spec

/-- The cache of `s` after some remember_success (spec R110). -/
def Remembered (s : State) (cache : List FlowEntry) : Prop :=
  ∃ src kid slot, cache = (s.rememberSuccess src kid slot).cache

/-- What remember_success makes of a cache depends on the cache alone. -/
theorem Remembered.congr {s p : State} {cache : List FlowEntry} (hp : Remembered p cache) (h : p.cache = s.cache) :
    Remembered s cache := by
  obtain ⟨src, kid, slot, hc⟩ := hp
  exact ⟨src, kid, slot, by rw [hc, rememberSuccess_cache, rememberSuccess_cache, h]⟩

/-- `u` is `s` with new values in the result registers and tables that command `i` may write, and in nothing else;
STATUS is left to the completion (spec R24 to R33, R137). -/
def CommandWrites (s u : State) : Instr → Prop
  | .nop => u = s
  | .ecbEnc => ∃ out, u = { s with blkOut := out }
  | .nonceBuild => ∃ nonce, u = { s with nonce := nonce }
  | .hash | .derive _ => ∃ digest, u = { s with digest := digest }
  | .ccmDec | .ccmEnc => ∃ len out, u = { s with outLen := len, obuf := out }
  | .krLoad => ∃ ring info, (ring = s.ring ∨ ∃ e, ring = s.ring ++ [e])
      ∧ u = { s with ring := ring, resultInfo := info }
  | .krClear => u = { s with ring := [], cache := [] }
  | .krRead => ∃ key info prov label, u = { s with rdKey := key, rdMeta := info, rdProv := prov, rdLabel := label }
  | .fcRemember => ∃ cache full, (cache = s.cache ∨ Remembered s cache)
      ∧ u = { s with cache := cache, fcfull := full }
  | .decryptFrame => ∃ len out info cache full, (cache = s.cache ∨ Remembered s cache)
      ∧ u = { s with outLen := len, obuf := out, resultInfo := info, cache := cache, fcfull := full }

/-- The command completes, having written only what it may (spec R136, R137). -/
def CompletesWithin (i : Instr) (s : State) (r : Result) : Prop :=
  ∃ u code detail, CommandWrites s u i ∧ r = .next (u.finish code detail)

theorem rememberSuccess_frame (s : State) (src : BitVec 64) (kid : KeyId) (slot : Byte) :
    ∃ full, s.rememberSuccess src kid slot
      = { s with cache := (s.rememberSuccess src kid slot).cache, fcfull := full } := by
  obtain ⟨-, h⟩ | ⟨-, -, h⟩ | ⟨-, -, h⟩ := rememberSuccess_cases s src kid slot
  all_goals exact ⟨_, by rw [h]⟩

theorem execNonceBuild_writes (s : State) : CompletesWithin .nonceBuild s (execNonceBuild s) := by
  unfold execNonceBuild
  split
  · exact ⟨_, _, _, ⟨_, rfl⟩, rfl⟩
  · exact ⟨s, _, _, ⟨s.nonce, rfl⟩, rfl⟩

theorem execHash_writes (s : State) : CompletesWithin .hash s (execHash s) := by
  obtain ⟨c, -, -, h⟩ | ⟨-, h⟩ := execHash_cases s
  · exact ⟨s, _, _, ⟨s.digest, rfl⟩, h⟩
  · exact ⟨_, _, _, ⟨_, rfl⟩, h⟩

theorem execCcmDec_writes (s : State) : CompletesWithin .ccmDec s (execCcmDec s) := by
  obtain ⟨c, -, -, h⟩ | ⟨-, h⟩ | ⟨-, m, -, h⟩ := execCcmDec_cases s
  · exact ⟨s, _, _, ⟨s.outLen, s.obuf, rfl⟩, h⟩
  · exact ⟨s.withhold, _, _, ⟨0, s.obuf, rfl⟩, h⟩
  · exact ⟨s.deliver m, _, _, ⟨_, _, rfl⟩, h⟩

theorem execCcmEnc_writes (s : State) : CompletesWithin .ccmEnc s (execCcmEnc s) := by
  obtain ⟨c, -, -, h⟩ | ⟨-, m, -, h⟩ := execCcmEnc_cases s
  · exact ⟨s, _, _, ⟨s.outLen, s.obuf, rfl⟩, h⟩
  · exact ⟨s.deliver m, _, _, ⟨_, _, rfl⟩, h⟩

theorem execKrLoad_writes (s : State) : CompletesWithin .krLoad s (execKrLoad s) := by
  unfold execKrLoad
  split
  · exact ⟨s, _, _, ⟨s.ring, s.resultInfo, .inl rfl, rfl⟩, rfl⟩
  · exact ⟨_, _, _, ⟨_, _, .inr ⟨_, rfl⟩, rfl⟩, rfl⟩

theorem execKrRead_writes (s : State) : CompletesWithin .krRead s (execKrRead s) := by
  unfold execKrRead
  split
  · exact ⟨s, _, _, ⟨s.rdKey, s.rdMeta, s.rdProv, s.rdLabel, rfl⟩, rfl⟩
  · exact ⟨_, _, _, ⟨_, _, _, _, rfl⟩, rfl⟩

theorem execFcRemember_writes (s : State) : CompletesWithin .fcRemember s (execFcRemember s) := by
  obtain ⟨-, h⟩ | ⟨-, -, h⟩ | ⟨-, -, h⟩ := execFcRemember_cases s
  · exact ⟨s, _, _, ⟨s.cache, s.fcfull, .inl rfl, rfl⟩, h⟩
  · exact ⟨s, _, _, ⟨s.cache, s.fcfull, .inl rfl, rfl⟩, h⟩
  · obtain ⟨full, hr⟩ := rememberSuccess_frame s s.src (ctrlKeyId s.secCtrl) s.krArg.slot
    exact ⟨_, _, _, ⟨_, full, .inr ⟨_, _, _, rfl⟩, hr⟩, h⟩

/-- A success writes its output, RESULT_INFO and the cache (spec R125). -/
theorem frameDecrypted_writes (s : State) (c : Candidate) (tried : Nat) (out : Bytes) :
    CompletesWithin .decryptFrame s (.next (s.frameDecrypted c tried out)) := by
  unfold State.frameDecrypted
  generalize hp : ({ s.deliver out with
    resultInfo := ⟨BitVec.ofNat 8 c.slot, true, c.fromCache, BitVec.ofNat 16 tried⟩ } : State) = p
  obtain ⟨full, hr⟩ := rememberSuccess_frame p s.src s.frameKeyId (BitVec.ofNat 8 c.slot)
  have hcache : p.cache = s.cache := by rw [← hp]; rfl
  have hcache' : Remembered s (p.rememberSuccess s.src s.frameKeyId (BitVec.ofNat 8 c.slot)).cache :=
    .congr (p := p) ⟨_, _, _, rfl⟩ hcache
  rw [hr]
  generalize (p.rememberSuccess s.src s.frameKeyId (BitVec.ofNat 8 c.slot)).cache = cache at hcache' ⊢
  subst hp
  exact ⟨_, _, _, ⟨_, _, _, cache, full, .inr hcache', rfl⟩, rfl⟩

theorem frameExhausted_writes (s : State) (tried : Nat) :
    CompletesWithin .decryptFrame s (.next (s.frameExhausted tried)) := by
  unfold State.frameExhausted
  generalize (⟨0, false, false, BitVec.ofNat 16 tried⟩ : ResultInfo) = info
  generalize s.frameText = text
  split
  · exact ⟨_, _, _, ⟨0, s.obuf, info, s.cache, s.fcfull, .inl rfl, rfl⟩, rfl⟩
  · exact ⟨_, _, _, ⟨_, _, info, s.cache, s.fcfull, .inl rfl, rfl⟩, rfl⟩

theorem frameNoSource_writes (s : State) : CompletesWithin .decryptFrame s (.next s.frameNoSource) := by
  unfold State.frameNoSource
  split
  · exact ⟨_, _, _, ⟨0, s.obuf, s.resultInfo, s.cache, s.fcfull, .inl rfl, rfl⟩, rfl⟩
  · exact ⟨_, _, _, ⟨_, _, s.resultInfo, s.cache, s.fcfull, .inl rfl, rfl⟩, rfl⟩

theorem decryptFrame_writes (s : State) : CompletesWithin .decryptFrame s (.next s.decryptFrame) := by
  obtain ⟨c, -, -, h⟩ | ⟨-, ⟨-, h⟩ | ⟨-, -, h⟩ | ⟨-, -, before, c, after, out, -, -, -, h⟩ | ⟨-, -, -, h⟩⟩ :=
    decryptFrame_cases s <;> rw [h]
  · exact ⟨_, _, _, ⟨s.outLen, s.obuf, s.resultInfo, s.cache, s.fcfull, .inl rfl, rfl⟩, rfl⟩
  · exact ⟨_, _, _, ⟨_, _, s.resultInfo, s.cache, s.fcfull, .inl rfl, rfl⟩, rfl⟩
  · exact frameNoSource_writes s
  · exact frameDecrypted_writes s c _ out
  · exact frameExhausted_writes s _

/-- RESULT_INFO is cleared first (spec R127), which DECRYPT_FRAME may write as well. -/
theorem execDecryptFrame_writes (s : State) : CompletesWithin .decryptFrame s (execDecryptFrame s) := by
  obtain ⟨u, code, detail, ⟨len, out, info, cache, full, hc, rfl⟩, h⟩ :=
    decryptFrame_writes { s with resultInfo := ResultInfo.zero }
  exact ⟨_, code, detail, ⟨len, out, info, cache, full, hc.imp_right (·.congr rfl), rfl⟩, h⟩

/-- Every command completes, having written only what it may. -/
theorem exec_writes (i : Instr) (s : State) : CompletesWithin i s (exec i s) := by
  cases i with
  | nop => exact ⟨s, _, _, rfl, rfl⟩
  | ecbEnc => exact ⟨_, _, _, ⟨_, rfl⟩, rfl⟩
  | nonceBuild => exact execNonceBuild_writes s
  | hash => exact execHash_writes s
  | derive sel => exact ⟨_, _, _, ⟨_, rfl⟩, rfl⟩
  | ccmDec => exact execCcmDec_writes s
  | ccmEnc => exact execCcmEnc_writes s
  | krLoad => exact execKrLoad_writes s
  | krClear => exact ⟨_, _, _, rfl, rfl⟩
  | krRead => exact execKrRead_writes s
  | fcRemember => exact execFcRemember_writes s
  | decryptFrame => exact execDecryptFrame_writes s

/-- What a command goes on to is a completion of what it may write. -/
theorem exec_next_writes {i : Instr} {s t : State} (h : exec i s = .next t) :
    ∃ u code detail, CommandWrites s u i ∧ t = u.finish code detail := by
  obtain ⟨u, code, detail, hw, hu⟩ := exec_writes i s
  exact ⟨u, code, detail, hw, Host.Outcome.next.inj (h.symm.trans hu)⟩

/-- Settles O25: no command may write an operand, and the completion writes STATUS alone. -/
theorem commandsNeverWriteTheirOperands : Obligations.CommandsNeverWriteTheirOperands := by
  intro i s t h
  obtain ⟨u, code, detail, hw, rfl⟩ := exec_next_writes h
  cases i
  case nop | krClear => cases hw; simp [State.dbufByte]
  case ecbEnc | nonceBuild | hash | derive => obtain ⟨_, rfl⟩ := hw; simp [State.dbufByte]
  case ccmDec | ccmEnc => obtain ⟨_, _, rfl⟩ := hw; simp [State.dbufByte]
  case krLoad | fcRemember => obtain ⟨_, _, -, rfl⟩ := hw; simp [State.dbufByte]
  case krRead => obtain ⟨_, _, _, _, rfl⟩ := hw; simp [State.dbufByte]
  case decryptFrame => obtain ⟨_, _, _, _, _, -, rfl⟩ := hw; simp [State.dbufByte]

/-- Settles O26: each result is written only by the commands that may write it. -/
theorem eachResultHasItsWriters : Obligations.EachResultHasItsWriters := by
  intro i s t h
  obtain ⟨u, code, detail, hw, rfl⟩ := exec_next_writes h
  cases i
  case nop | krClear => cases hw; simp [State.obufByte]
  case ecbEnc | nonceBuild | hash | derive => obtain ⟨_, rfl⟩ := hw; simp [State.obufByte]
  case ccmDec | ccmEnc => obtain ⟨_, _, rfl⟩ := hw; simp
  case krLoad | fcRemember => obtain ⟨_, _, -, rfl⟩ := hw; simp [State.obufByte]
  case krRead => obtain ⟨_, _, _, _, rfl⟩ := hw; simp [State.obufByte]
  case decryptFrame => obtain ⟨_, _, _, _, _, -, rfl⟩ := hw; simp

/-! ### The tables over every step -/

theorem step_resets {s : State} (h : resetsNext s) :
    step s = .next (State.assertReset { s with agenda := s.agenda.tail }) := by
  obtain ⟨rest, hr⟩ := List.head?_eq_some_iff.mp h
  rw [step_cons hr, perform_reset, hr, List.tail_cons]

theorem step_completes {s : State} {i : Instr} (h : completesNext s i) :
    step s = exec i { s with agenda := s.agenda.tail } := by
  obtain ⟨hturn, w, hp, hd⟩ := h
  have complete_eq : ∀ u : State, u.pending = some w → engineTurn u = exec i u := fun u hu => by
    rw [engineTurn_pending hu, complete, hd]
  obtain hnil | hcons := hturn
  · have hs : { s with agenda := s.agenda.tail } = s := by rw [hnil, List.tail_nil, ← hnil]
    rw [step_nil hnil, hs, complete_eq s hp]
  · obtain ⟨rest, hr⟩ := List.head?_eq_some_iff.mp hcons
    rw [step_cons hr, perform_engine, hr, List.tail_cons]
    exact complete_eq _ hp

/-- The engine's turn completes a command, or leaves the tables as they were. -/
theorem engineTurn_keeps_tables {u t : State} (h : engineTurn u = .next t) :
    (∃ w i, u.pending = some w ∧ decodeWord w = .ok i) ∨ (t.ring = u.ring ∧ t.cache = u.cache) := by
  obtain ⟨-, h1⟩ | ⟨w, hp, ⟨i, hd, -⟩ | h1⟩ := engineTurn_cases u
  · cases h1.symm.trans h
    exact .inr ⟨rfl, rfl⟩
  · exact .inl ⟨w, i, hp, hd⟩
  · cases h1.symm.trans h
    exact .inr ⟨rfl, rfl⟩

theorem hostWrite_keeps_tables (s : State) (w : Width) (ofs : Nat) (v : Word) :
    (s.hostWrite w ofs v).ring = s.ring ∧ (s.hostWrite w ofs v).cache = s.cache := by
  obtain ⟨-, h⟩ | ⟨-, h⟩ | ⟨-, h⟩ | ⟨-, h⟩ := hostWrite_cases s w ofs v <;> simp [h]

/-- A host access that goes on lies in the window. -/
theorem inWindow_next {ofs : Nat} {r : Result} {t : State} (h : inWindow ofs r = .next t) : r = .next t := by
  unfold inWindow at h
  split at h
  · exact h
  · cases h

/-- A step that neither resets nor completes a command leaves the tables as they were. -/
theorem step_keeps_tables {s t : State} (h : step s = .next t) :
    resetsNext s ∨ (∃ i, completesNext s i) ∨ (t.ring = s.ring ∧ t.cache = s.cache) := by
  cases ha : s.agenda with
  | nil =>
    rw [step_nil ha] at h
    exact .inr ((engineTurn_keeps_tables h).imp_left fun ⟨w, i, hp, hd⟩ => ⟨i, .inl ha, w, hp, hd⟩)
  | cons e rest =>
    rw [step_cons ha] at h
    have hhead : s.agenda.head? = some e := by rw [ha, List.head?_cons]
    cases e with
    | reset => exact .inl hhead
    | engine =>
      exact .inr ((engineTurn_keeps_tables h).imp_left fun ⟨w, i, hp, hd⟩ => ⟨i, .inr hhead, w, hp, hd⟩)
    | read w ofs =>
      cases inWindow_next h
      exact .inr (.inr ⟨rfl, rfl⟩)
    | write w ofs v =>
      cases inWindow_next h
      exact .inr (.inr (hostWrite_keeps_tables _ w ofs v))

/-- Only KR_CLEAR empties the tables; KR_LOAD may add one key, FC_REMEMBER and DECRYPT_FRAME remember one success
(spec R32, R33). -/
theorem exec_tables {i : Instr} {s t : State} (h : exec i s = .next t) (hi : i ≠ .krClear) :
    (t.ring = s.ring ∨ i = .krLoad ∧ ∃ e, t.ring = s.ring ++ [e])
      ∧ (t.cache = s.cache ∨ (i = .fcRemember ∨ i = .decryptFrame)
          ∧ Remembered s t.cache) := by
  obtain ⟨u, code, detail, hw, rfl⟩ := exec_next_writes h
  cases i
  case krClear => exact absurd rfl hi
  case nop => cases hw; simp
  case ecbEnc | nonceBuild | hash | derive => obtain ⟨_, rfl⟩ := hw; simp
  case ccmDec | ccmEnc => obtain ⟨_, _, rfl⟩ := hw; simp
  case krLoad => obtain ⟨_, _, hring, rfl⟩ := hw; simpa using hring
  case krRead => obtain ⟨_, _, _, _, rfl⟩ := hw; simp
  case fcRemember => obtain ⟨_, _, hcache, rfl⟩ := hw; simpa using hcache
  case decryptFrame => obtain ⟨_, _, _, _, _, hcache, rfl⟩ := hw; simpa using hcache

/-- Settles O24, by what the step does: a reset, a completion, or neither. -/
theorem keyRingIsAppendOnly : Obligations.KeyRingIsAppendOnly := by
  intro s t h
  refine ⟨?_, fun hreset hclear => ?_⟩
  · rintro (hreset | hclear)
    · cases (step_resets hreset).symm.trans h
      exact ⟨rfl, rfl⟩
    · obtain ⟨u, code, detail, hw, rfl⟩ := exec_next_writes ((step_completes hclear).symm.trans h)
      cases hw
      exact ⟨rfl, rfl⟩
  · obtain hr | ⟨i, hi⟩ | ⟨hring, hcache⟩ := step_keeps_tables h
    · exact absurd hr hreset
    · have hne : i ≠ .krClear := by rintro rfl; exact hclear hi
      obtain ⟨hring, hcache⟩ := exec_tables ((step_completes hi).symm.trans h) hne
      refine ⟨hring.imp_right ?_, hcache.imp_right ?_⟩
      · rintro ⟨rfl, he⟩
        exact ⟨hi, he⟩
      · rintro ⟨rfl | rfl, hrem⟩
        · exact ⟨.inl hi, hrem.congr rfl⟩
        · exact ⟨.inr hi, hrem.congr rfl⟩
    · exact ⟨.inl hring, .inl hcache⟩

end Sys2Proof.Machine

/-! PROOFS. What an aligned write does while the core is idle, one location at a time and then for the bytes of a
whole access (spec R10, R11, R13, R37, R41, R43, R44). -/

namespace Sys2Proof.Machine

open Sys2Proof.Spec

/-! ### The register map read backwards: what offset a location has -/

theorem locateRegister_cases (ofs : Nat) :
    (∃ r k, k < 4 ∧ ofs = Reg.offset r + k ∧ locateRegister ofs = .reg r k)
    ∨ (∃ a i, i < ArrayReg.size a ∧ ofs = ArrayReg.base a + i ∧ locateRegister ofs = .array a i)
    ∨ locateRegister ofs = .reserved := by
  unfold locateRegister
  cases hr : Reg.all.find? (fun r => r.offset == ofs / 4 * 4) with
  | some r =>
    have hofs : r.offset = ofs / 4 * 4 := by simpa using List.find?_some hr
    exact .inl ⟨r, ofs % 4, Nat.mod_lt _ (by decide), by omega, rfl⟩
  | none =>
    cases ha : ArrayReg.all.find? (fun a => a.base ≤ ofs && ofs < a.base + a.size) with
    | some a =>
      have hofs : a.base ≤ ofs ∧ ofs < a.base + a.size := by simpa using List.find?_some ha
      exact .inr (.inl ⟨a, ofs - a.base, by omega, by omega, rfl⟩)
    | none => exact .inr (.inr rfl)

/-- What can stand at an offset, with the offset it then is (spec R10, R37). -/
theorem locate_cases (ofs : Nat) :
    (∃ r k, k < 4 ∧ ofs = Reg.offset r + k ∧ locate ofs = .reg r k)
    ∨ (∃ a i, i < ArrayReg.size a ∧ ofs = ArrayReg.base a + i ∧ locate ofs = .array a i)
    ∨ (∃ i, i < Config.dbufSize ∧ ofs = 0x1000 + i ∧ locate ofs = .dbuf i)
    ∨ (∃ i, i < Config.obufSize ∧ ofs = 0x2000 + i ∧ locate ofs = .obuf i)
    ∨ locate ofs = .reserved := by
  unfold locate
  split
  · exact (locateRegister_cases ofs).imp_right (.imp_right fun h => .inr (.inr h))
  · rename_i hlow
    unfold dbufBase at hlow
    split
    · split
      · rename_i hd
        exact .inr (.inr (.inl ⟨_, hd, by unfold dbufBase; omega, rfl⟩))
      · exact .inr (.inr (.inr (.inr rfl)))
    · rename_i hmid
      unfold obufBase at hmid
      split
      · split
        · rename_i ho
          exact .inr (.inr (.inr (.inl ⟨_, ho, by unfold obufBase; omega, rfl⟩)))
        · exact .inr (.inr (.inr (.inr rfl)))
      · exact .inr (.inr (.inr (.inr rfl)))

/-! ### The step of an aligned write while idle -/

/-- Past CMD, an aligned write while idle stores the bytes it covers (spec R44, R45). -/
theorem step_idle_write {s : State} {w : Width} {ofs : Nat} {v : Word} {rest : List HostEvent} (hbusy : s.busy = false)
    (haligned : ofs % w.bytes = 0) (hlow : 4 ≤ ofs) (hhigh : ofs < 0x3000) (h : s.agenda = .write w ofs v :: rest) :
    step s = .next (State.storeBytes { s with agenda := rest } ofs v w.bytes) := by
  have hcmd : ¬ (w = .w32 ∧ ofs = 0) := by omega
  have haligned' : w.aligned ofs = true := by simpa [Width.aligned] using haligned
  rw [step_cons h, perform_write hhigh]
  exact congrArg Host.Outcome.next (hostWrite_store v hbusy haligned' hcmd)

/-- An aligned access that begins in a range with word-aligned ends lies in it. -/
theorem aligned_access_fits {w : Width} {ofs : Nat} (h : ofs % w.bytes = 0) (m : Nat) (hlt : ofs < 4 * m) :
    ofs + w.bytes ≤ 4 * m := by
  cases w <;> simp only [Width.bytes] at h ⊢ <;> omega

/-! ### Read-only and reserved offsets -/

/-- The read-write registers, CMD and STATUS not among them (spec R10, R11). -/
def Reg.readWrite : Reg → Bool
  | .cmd | .status | .id | .outLen | .krCount | .resultInfo | .fcCount | .rdMeta | .rdProv | .rdLabel => false
  | _ => true

theorem writeRegByte_readOnly (s : State) {r : Reg} (k : Nat) (b : Byte) (h : r.readWrite = false)
    (hs : r ≠ .status) : s.writeRegByte r k b = s := by
  cases r <;> simp [Reg.readWrite] at h hs <;> rfl

/-- A byte written to a read-only register, to OBUF or to a reserved offset is ignored (spec R11). -/
theorem writeLoc_readOnlyOffset {ofs : Nat} (h : readOnlyOffset ofs) (s : State) (b : Byte) :
    s.writeLoc (locate ofs) b = s := by
  have hsize : Config.dbufSize = 256 := rfl
  unfold readOnlyOffset at h
  obtain ⟨r, k, hk, rfl, hl⟩ | ⟨a, i, hi, rfl, hl⟩ | ⟨i, hi, rfl, hl⟩ | ⟨i, hi, rfl, hl⟩ | hl := locate_cases ofs <;>
    rw [hl]
  · refine writeRegByte_readOnly s k b ?_ ?_
    · cases r <;> simp only [Reg.offset, Reg.readWrite] at h ⊢ <;> omega
    · rintro rfl
      simp only [Reg.offset] at h
      omega
  · cases a
    case blkOut | digest | rdKey => rfl
    all_goals
      simp only [ArrayReg.base, ArrayReg.size] at h hi
      omega
  · omega
  · rfl
  · rfl

/-- An access all of whose bytes are ignored changes nothing. -/
theorem storeBytes_readOnlyOffset (s : State) (ofs : Nat) (v : Word) (n : Nat)
    (h : ∀ k < n, readOnlyOffset (ofs + k)) : s.storeBytes ofs v n = s := by
  induction n with
  | zero => rfl
  | succ n ih =>
    rw [State.storeBytes, ih fun k hk => h k (Nat.lt_succ_of_lt hk), writeLoc_readOnlyOffset (h n (Nat.lt_succ_self n))]

theorem readByte_reserved (s : State) {ofs : Nat}
    (h : (0x05C ≤ ofs ∧ ofs < 0x060) ∨ (0x09D ≤ ofs ∧ ofs < 0x0A0) ∨ (0x0B0 ≤ ofs ∧ ofs < 0x0C0)
        ∨ (0x0DC ≤ ofs ∧ ofs < 0x1000) ∨ (0x1000 + Config.dbufSize ≤ ofs ∧ ofs < 0x2000)
        ∨ (0x2000 + Config.obufSize ≤ ofs ∧ ofs < 0x3000)) : s.readByte ofs = 0 := by
  have hd : Config.dbufSize = 256 := rfl
  have ho : Config.obufSize = 256 := rfl
  obtain ⟨r, k, hk, rfl, -⟩ | ⟨a, i, hi, rfl, -⟩ | ⟨i, hi, rfl, -⟩ | ⟨i, hi, rfl, -⟩ | hl := locate_cases ofs
  · cases r <;> simp only [Reg.offset] at h <;> omega
  · cases a <;> simp only [ArrayReg.base, ArrayReg.size] at h hi <;> omega
  · omega
  · omega
  · rw [State.readByte, hl, State.readLoc]

/-- Settles O17: every byte of such a write is ignored, and a reserved offset is no location of the map. -/
theorem readOnlyAndReservedIgnoreWrites : Obligations.ReadOnlyAndReservedIgnoreWrites := by
  refine ⟨fun s w ofs v rest hbusy haligned hro h => ?_, fun s ofs h => readByte_reserved s h⟩
  have hfirst : readOnlyOffset ofs := hro 0 (by cases w <;> decide)
  have hd : Config.dbufSize = 256 := rfl
  unfold readOnlyOffset at hfirst
  rw [step_idle_write hbusy haligned (by omega) (by omega) h, storeBytes_readOnlyOffset _ _ _ _ hro]

/-! ### STATUS -/

/-- The low `n` bytes of `v` at byte lane `j` of a word, zero in every other lane: the STATUS word that a narrow write
presents (spec R44). -/
def presentedWord (j : Nat) (v : Word) (n : Nat) : Word := (v.setWidth (8 * n)).setWidth 32 <<< (8 * j)

theorem presentedWord_getLsbD (j : Nat) (v : Word) (n b : Nat) :
    (presentedWord j v n).getLsbD b
      = (decide (8 * j ≤ b ∧ b < 8 * j + 8 * n ∧ b < 32) && v.getLsbD (b - 8 * j)) := by
  simp only [presentedWord, BitVec.getLsbD_shiftLeft, BitVec.getLsbD_setWidth]
  grind

/-- One more byte presented at the next lane. -/
theorem presentedWord_succ {j n : Nat} (v : Word) (h : j + n < 4) :
    presentedWord j v (n + 1) = presentedWord j v n ||| inLane (j + n) (lane v n) := by
  refine BitVec.eq_of_getLsbD_eq fun b hb => ?_
  rw [BitVec.getLsbD_or, presentedWord_getLsbD, presentedWord_getLsbD]
  simp only [inLane, lane, BitVec.getLsbD_shiftLeft, BitVec.getLsbD_setWidth, BitVec.getLsbD_extractLsb']
  have hlane : 8 * j + 8 * n ≤ b → 8 * n + (b - 8 * (j + n)) = b - 8 * j := by omega
  grind

/-- Clearing by one word after another clears the ones of both. -/
theorem clearStatus_clearStatus (s : State) (a b : Word) :
    (s.clearStatus a).clearStatus b = s.clearStatus (a ||| b) := by
  simp [State.clearStatus, Bool.and_assoc]

/-- Bytes written to STATUS clear the ones of the word they present (spec R13, R44). -/
theorem storeBytes_status (s : State) (v : Word) (j n : Nat) (h : j + n ≤ 4) :
    s.storeBytes (0x004 + j) v n = s.clearStatus (presentedWord j v n) := by
  induction n with
  | zero => simp [State.storeBytes, State.clearStatus, presentedWord]
  | succ n ih =>
    rw [State.storeBytes, ih (by omega), Nat.add_assoc, show 0x004 = Reg.offset .status from rfl,
      locate_register .status (by omega), presentedWord_succ v (by omega), ← clearStatus_clearStatus]
    rfl

/-- Settles O18: the word an aligned write presents to STATUS has a one exactly where the write covers a bit and
carries one there. -/
theorem statusWriteClearsOnes : Obligations.StatusWriteClearsOnes := by
  intro s w ofs v rest hbusy haligned hlow hhigh h
  obtain ⟨j, rfl⟩ := Nat.exists_eq_add_of_le hlow
  have hfits := aligned_access_fits haligned 2 hhigh
  have hones : ∀ b < 32, (presentedWord j v w.bytes).getLsbD b = writesOne w (0x004 + j) v b := by
    intro b hb
    rw [presentedWord_getLsbD, writesOne, Nat.add_sub_cancel_left]
    simp [hb]
  rw [step_idle_write hbusy haligned hlow (by omega) h, storeBytes_status _ _ _ _ (by omega)]
  simp only [State.clearStatus, hones, Nat.reduceLT]

end Sys2Proof.Machine

/-! PROOFS. What a write of any width stores: the fields of a register, the bytes of an array and of DBUF, and how
they read back (spec R10, R11, R43, R44). -/

namespace Sys2Proof.Machine

open Sys2Proof.Spec

/-! ### Lanes of a word -/

theorem lane_and (a b : Word) (k : Nat) : lane (a &&& b) k = lane a k &&& lane b k := BitVec.extractLsb'_and ..

theorem inLane_getLsbD (k : Nat) (b : Byte) {i : Nat} (hi : i < 32) :
    (inLane k b).getLsbD i = (decide (8 * k ≤ i) && b.getLsbD (i - 8 * k)) := by
  simp only [inLane, BitVec.getLsbD_shiftLeft, BitVec.getLsbD_setWidth]
  grind

theorem setLane_getLsbD (w : Word) (k : Nat) (b : Byte) {i : Nat} (hi : i < 32) :
    (setLane w k b).getLsbD i = if 8 * k ≤ i ∧ i < 8 * k + 8 then b.getLsbD (i - 8 * k) else w.getLsbD i := by
  have hfull : (0xFF : Byte) = BitVec.allOnes 8 := rfl
  have hbeyond : ¬ i - 8 * k < 8 → b.getLsbD (i - 8 * k) = false := fun h => BitVec.getLsbD_of_ge _ _ (by omega)
  simp only [setLane, BitVec.getLsbD_or, BitVec.getLsbD_and, BitVec.getLsbD_not, inLane_getLsbD _ _ hi, hfull,
    BitVec.getLsbD_allOnes]
  grind

/-- A lane that is written holds the byte, every other lane what it held. -/
theorem lane_setLane (w : Word) {k k' : Nat} (b : Byte) (h : k' < 4) :
    lane (setLane w k b) k' = if k' = k then b else lane w k' := by
  refine BitVec.eq_of_getLsbD_eq fun i hi => ?_
  simp only [lane, BitVec.getLsbD_extractLsb', setLane_getLsbD w k b (show 8 * k' + i < 32 by omega)]
  grind

/-- Bits outside a mask do not matter to a lane that is written under it. -/
theorem setLane_and_mask (w m : Word) (k : Nat) (b : Byte) : setLane (w &&& m) k b &&& m = setLane w k b &&& m := by
  refine BitVec.eq_of_getLsbD_eq fun i hi => ?_
  simp only [BitVec.getLsbD_and, setLane_getLsbD _ _ _ hi]
  split <;> simp

/-- The word that `u` is once the low `n` bytes of `v` have been written from lane `j` on (spec R44). -/
def overlayWord (u : Word) (j : Nat) (v : Word) : Nat → Word
  | 0 => u
  | n + 1 => setLane (overlayWord u j v n) (j + n) (lane v n)

theorem lane_overlayWord (u : Word) (j : Nat) (v : Word) {n k : Nat} (hk : k < n) (hn : j + n ≤ 4) :
    lane (overlayWord u j v n) (j + k) = lane v k := by
  induction n with
  | zero => omega
  | succ n ih =>
    rw [overlayWord, lane_setLane _ _ (by omega)]
    by_cases hkn : k = n
    · rw [if_pos (by omega), hkn]
    · rw [if_neg (by omega), ih (by omega) (by omega)]

/-- Four lanes written replace the word. -/
theorem overlayWord_full (u v : Word) : overlayWord u 0 v 4 = v := setLane_lanes u v

/-! ### Registers: their fields, and what a write of some of their bytes stores -/

/-- A field of a word, by its bits. -/
theorem field_eq_of_bits {w : Word} {start len : Nat} {x : BitVec len}
    (h : ∀ i < len, w.getLsbD (start + i) = x.getLsbD i) : w.extractLsb' start len = x := by
  refine BitVec.eq_of_getLsbD_eq fun i hi => ?_
  rw [BitVec.getLsbD_extractLsb', h i hi]
  simp [hi]

theorem ConfigReg.word_ofWord (v : Word) : (ConfigReg.ofWord v).word = v &&& 0x00000107 := by
  refine BitVec.eq_of_getLsbD_eq fun i hi => ?_
  simp only [ConfigReg.word, ConfigReg.ofWord, bit, BitVec.getLsbD_append]
  interval_cases i <;> simp

theorem ConfigReg.ofWord_word (c : ConfigReg) : ConfigReg.ofWord c.word = c := by
  have hlevel : c.word.extractLsb' 0 3 = c.decodeLevel := field_eq_of_bits fun i hi => by
    simp only [ConfigReg.word, bit, BitVec.getLsbD_append]
    interval_cases i <;> simp
  have hie : c.word.getLsbD 8 = c.ie := by
    simp only [ConfigReg.word, bit, BitVec.getLsbD_append]
    simp
  rw [ConfigReg.ofWord, hlevel, hie]

theorem HdrFlags.word_ofWord (v : Word) : (HdrFlags.ofWord v).word = v &&& 0x0000FF03 := by
  refine BitVec.eq_of_getLsbD_eq fun i hi => ?_
  simp only [HdrFlags.word, HdrFlags.ofWord, bit, BitVec.getLsbD_append]
  interval_cases i <;> simp

theorem HdrFlags.ofWord_word (h : HdrFlags) : HdrFlags.ofWord h.word = h := by
  have hsrc : h.word.getLsbD 0 = h.srcValid := by
    simp only [HdrFlags.word, bit, BitVec.getLsbD_append]
    simp
  have hksn : h.word.getLsbD 1 = h.ksnValid := by
    simp only [HdrFlags.word, bit, BitVec.getLsbD_append]
    simp
  have hseq : h.word.extractLsb' 8 8 = h.keySeq := field_eq_of_bits fun i hi => by
    simp only [HdrFlags.word, bit, BitVec.getLsbD_append]
    interval_cases i <;> simp
  rw [HdrFlags.ofWord, hsrc, hksn, hseq]

theorem KrArg.word_ofWord (v : Word) : (KrArg.ofWord v).word = v &&& 0x0000FF07 := by
  refine BitVec.eq_of_getLsbD_eq fun i hi => ?_
  simp only [KrArg.word, KrArg.ofWord, bit, BitVec.getLsbD_append]
  interval_cases i <;> simp

theorem KrArg.ofWord_word (a : KrArg) : KrArg.ofWord a.word = a := by
  have hcls : a.word.extractLsb' 0 2 = a.cls := field_eq_of_bits fun i hi => by
    simp only [KrArg.word, bit, BitVec.getLsbD_append]
    interval_cases i <;> simp
  have horigin : a.word.getLsbD 2 = a.origin := by
    simp only [KrArg.word, bit, BitVec.getLsbD_append]
    simp
  have hslot : a.word.extractLsb' 8 8 = a.slot := field_eq_of_bits fun i hi => by
    simp only [KrArg.word, bit, BitVec.getLsbD_append]
    interval_cases i <;> simp
  rw [KrArg.ofWord, hcls, horigin, hslot]

/-- A byte register in a word: its eight bits are kept (spec R16, R22). -/
theorem setWidth_setWidth_eq_and (v : Word) : (v.setWidth 8).setWidth 32 = v &&& 0x000000FF := by
  refine BitVec.eq_of_getLsbD_eq fun i hi => ?_
  interval_cases i <;> simp

/-- The bits of a read-write register that a write reaches; the others are reserved (spec R14, R16, R19, R22, R30). -/
def Reg.writeMask : Reg → Word
  | .config => 0x00000107
  | .secCtrl | .micLen => 0x000000FF
  | .hdrFlags => 0x0000FF03
  | .krArg => 0x0000FF07
  | _ => 0xFFFFFFFF

/-- A read-write register reads back what was stored, its reserved bits 0 (spec R11). -/
theorem regWord_storeReg (s : State) {r : Reg} (v : Word) (h : r.readWrite = true) :
    (s.storeReg r v).regWord r = v &&& r.writeMask := by
  cases r
  case cmd | status | id | outLen | krCount | resultInfo | fcCount | rdMeta | rdProv | rdLabel => cases h
  case config => exact ConfigReg.word_ofWord v
  case hdrFlags => exact HdrFlags.word_ofWord v
  case krArg => exact KrArg.word_ofWord v
  case secCtrl | micLen => exact setWidth_setWidth_eq_and v
  all_goals exact (BitVec.and_allOnes (x := v)).symm

/-- Storing what a register reads changes nothing. -/
theorem storeReg_regWord (s : State) (r : Reg) : s.storeReg r (s.regWord r) = s := by
  cases r
  case config => exact congrArg (fun c => { s with config := c }) (ConfigReg.ofWord_word s.config)
  case hdrFlags => exact congrArg (fun c => { s with hdrFlags := c }) (HdrFlags.ofWord_word s.hdrFlags)
  case krArg => exact congrArg (fun c => { s with krArg := c }) (KrArg.ofWord_word s.krArg)
  case secCtrl | micLen => simp [State.storeReg, State.regWord]
  all_goals rfl

theorem storeReg_storeReg (s : State) (r : Reg) (u v : Word) : (s.storeReg r u).storeReg r v = s.storeReg r v := by
  cases r <;> rfl

/-- Reserved bits of what is stored do not matter. -/
theorem storeReg_and_writeMask (s : State) {r : Reg} (v : Word) (h : r.readWrite = true) :
    s.storeReg r (v &&& r.writeMask) = s.storeReg r v := by
  rw [← regWord_storeReg s v h, ← storeReg_storeReg s r v, storeReg_regWord]

/-- One lane of a read-write register written. -/
theorem writeRegByte_storeReg (s : State) {r : Reg} (u : Word) (k : Nat) (b : Byte) (h : r.readWrite = true) :
    (s.storeReg r u).writeRegByte r k b = s.storeReg r (setLane u k b) := by
  have hstore : ∀ t : State, t.writeRegByte r k b = t.storeReg r (setLane (t.regWord r) k b) := by
    cases r
    case status => cases h
    all_goals exact fun _ => rfl
  rw [hstore, storeReg_storeReg, regWord_storeReg s u h, ← storeReg_and_writeMask s _ h, setLane_and_mask,
    storeReg_and_writeMask s _ h]

/-- Bytes written to a read-write register replace those lanes of it (spec R44). -/
theorem storeBytes_register (s : State) {r : Reg} (v : Word) {j n : Nat} (h : r.readWrite = true) (hn : j + n ≤ 4) :
    s.storeBytes (r.offset + j) v n = s.storeReg r (overlayWord (s.regWord r) j v n) := by
  induction n with
  | zero => exact (storeReg_regWord s r).symm
  | succ n ih =>
    rw [State.storeBytes, ih (by omega), Nat.add_assoc, locate_register r (by omega), State.writeLoc,
      writeRegByte_storeReg s _ _ _ h, overlayWord]

/-! ### Arrays -/

/-- The arrays a host may write (spec R10). -/
def ArrayReg.readWrite : ArrayReg → Bool
  | .key | .blkIn | .nonce => true
  | .blkOut | .digest | .rdKey => false

/-- A vector once the low `n` bytes of `v` have been written from index `i` on; bytes past its end are lost. -/
def overlayVector {m : Nat} (x : Vector Byte m) (i : Nat) (v : Word) : Nat → Vector Byte m
  | 0 => x
  | n + 1 => (overlayVector x i v n).setIfInBounds (i + n) (lane v n)

theorem overlayVector_getD {m : Nat} (x : Vector Byte m) (i : Nat) (v : Word) (n : Nat) {j : Nat} (hj : j < m) :
    (overlayVector x i v n).toList.getD j 0
      = if i ≤ j ∧ j < i + n then lane v (j - i) else x.toList.getD j 0 := by
  have getD_eq : ∀ y : Vector Byte m, y.toList.getD j 0 = y[j] := fun y => by simp [hj]
  rw [getD_eq, getD_eq]
  induction n with
  | zero => rw [if_neg (by omega), overlayVector]
  | succ n ih =>
    rw [overlayVector, Vector.getElem_setIfInBounds, ih]
    by_cases h : i + n = j
    · rw [if_pos h, if_pos (by omega), ← h, Nat.add_sub_cancel_left]
    · rw [if_neg h]
      exact if_congr (by omega) rfl rfl

/-- The state with those bytes of a read-write array replaced. -/
def State.overlayArray (s : State) (a : ArrayReg) (i : Nat) (v : Word) (n : Nat) : State :=
  match a with
  | .key => { s with key := overlayVector s.key i v n }
  | .blkIn => { s with blkIn := overlayVector s.blkIn i v n }
  | .nonce => { s with nonce := overlayVector s.nonce i v n }
  | .blkOut | .digest | .rdKey => s

/-- A byte written within 16 bytes of an array's base goes to the array; past NONCE's 13 bytes it is ignored. -/
theorem writeLoc_array (s : State) (a : ArrayReg) {i : Nat} (b : Byte) (hi : i < 16) :
    s.writeLoc (locate (a.base + i)) b = s.writeArrayByte a i b := by
  by_cases hsize : i < a.size
  · rw [locate_array a hsize, State.writeLoc]
  · cases a
    case nonce =>
      have hro : readOnlyOffset (ArrayReg.base .nonce + i) := by
        simp only [ArrayReg.size, ArrayReg.base, readOnlyOffset] at hsize ⊢
        omega
      rw [writeLoc_readOnlyOffset hro, State.writeArrayByte,
        Vector.setIfInBounds_eq_of_size_le (by simpa [ArrayReg.size] using hsize)]
    all_goals exact absurd hi hsize

theorem storeBytes_array (s : State) (a : ArrayReg) {i : Nat} (v : Word) {n : Nat} (h : i + n ≤ 16) :
    s.storeBytes (a.base + i) v n = s.overlayArray a i v n := by
  induction n with
  | zero => cases a <;> rfl
  | succ n ih =>
    rw [State.storeBytes, ih (by omega), Nat.add_assoc, writeLoc_array _ a _ (by omega)]
    cases a <;> rfl

/-! ### DBUF -/

theorem writeBytes_concat (m : Memory) (ofs : Nat) (vs : Bytes) (b : Byte) :
    Memory.writeBytes m ofs (vs ++ [b]) = Memory.write (Memory.writeBytes m ofs vs) (ofs + vs.length) b := by
  induction vs generalizing m ofs with
  | nil => rfl
  | cons v rest ih =>
    rw [List.cons_append, Memory.writeBytes, ih, Memory.writeBytes, List.length_cons, Nat.add_assoc, Nat.add_comm 1]

/-- The low `n` bytes of a bus value, least significant first (spec R43). -/
def busBytes (v : Word) (n : Nat) : Bytes := (List.range n).map (lane v)

@[simp] theorem busBytes_length (v : Word) (n : Nat) : (busBytes v n).length = n := by simp [busBytes]

theorem storeBytes_dbuf (s : State) {i : Nat} (v : Word) {n : Nat} (h : i + n ≤ Config.dbufSize) :
    s.storeBytes (0x1000 + i) v n = { s with dbuf := Memory.writeBytes s.dbuf i (busBytes v n) } := by
  induction n with
  | zero => rfl
  | succ n ih =>
    have hsnoc : busBytes v (n + 1) = busBytes v n ++ [lane v n] := by simp [busBytes, List.range_succ]
    rw [State.storeBytes, ih (by omega), Nat.add_assoc, locate_dbuf (by omega), hsnoc, writeBytes_concat,
      busBytes_length]
    rfl

theorem dbufByte_writeBytes (s : State) (i : Nat) (vs : Bytes) (o : Nat) :
    ({ s with dbuf := Memory.writeBytes s.dbuf i vs } : State).dbufByte o
      = if i ≤ o ∧ o < i + vs.length then vs.getD (o - i) 0 else s.dbufByte o := by
  unfold State.dbufByte
  rw [read_writeBytes]
  split <;> simp

/-! ### Reading back -/

/-- The read-write words of the map are the read-write registers, with their masks, and the words of the read-write
arrays, whose bytes past the array's end are reserved. -/
theorem writableWords_cases : ∀ p ∈ writableWords,
    (∃ r ∈ Reg.all, r.readWrite = true ∧ p = (r.offset, r.writeMask))
    ∨ ∃ a ∈ ArrayReg.all, a.readWrite = true ∧ ∃ m < 4, p.1 = a.base + 4 * m
        ∧ ∀ k < 4, lane p.2 k = if 4 * m + k < a.size then 0xFF else 0 := by
  decide

theorem busRead_w32_eq {s : State} {ofs : Nat} {u : Word} (ha : ofs % 4 = 0)
    (h : ∀ k < 4, s.readByte (ofs + k) = lane u k) : s.busRead .w32 ofs = u := by
  have haligned : Width.aligned .w32 ofs = true := by simpa [Width.aligned, Width.bytes] using ha
  have hbytes : (List.range 4).map (fun k => s.readByte (ofs + k)) = (List.range 4).map (lane u) :=
    List.map_congr_left fun k hk => h k (List.mem_range.mp hk)
  rw [State.busRead, if_pos haligned, Width.bytes, hbytes]
  exact fromLe_lanes u

/-- Past the end of an array its last word is reserved. -/
theorem readByte_past_array (s : State) {a : ArrayReg} {q : Nat} (hsize : a.size ≤ q) (hq : q < 16) :
    s.readByte (a.base + q) = 0 := by
  cases a
  case nonce =>
    refine readByte_reserved s ?_
    simp only [ArrayReg.size, ArrayReg.base] at hsize ⊢
    omega
  all_goals exact absurd hq (Nat.not_lt.mpr hsize)

/-- A byte of a read-write array after some of its bytes are written. -/
theorem readByte_overlayArray (s : State) {a : ArrayReg} (ha : a.readWrite = true) {i q : Nat} (v : Word) {n : Nat}
    (hq : q < a.size) (hi : i ≤ q) (hn : q < i + n) :
    (s.overlayArray a i v n).readByte (a.base + q) = lane v (q - i) := by
  rw [readByte_array _ a hq]
  cases a
  case blkOut | digest | rdKey => cases ha
  all_goals exact (overlayVector_getD _ i v n hq).trans (if_pos ⟨hi, hn⟩)

/-- Bytes written into a read-write word read back, reserved bits 0 (spec R11, R44). -/
theorem readByte_storeBytes (s : State) (v : Word) {p : Nat × Word} (hp : p ∈ writableWords) {j n k : Nat} (hk : k < n)
    (hn : j + n ≤ 4) :
    (s.storeBytes (p.1 + j) v n).readByte (p.1 + (j + k)) = lane v k &&& lane p.2 (j + k) := by
  obtain ⟨r, -, hr, rfl⟩ | ⟨a, -, ha, m, hm, hofs, hmask⟩ := writableWords_cases p hp
  · rw [storeBytes_register s v hr hn, readByte_register _ r (by omega), regWord_storeReg _ _ hr, lane_and,
      lane_overlayWord _ _ _ hk hn]
  · rw [hofs, Nat.add_assoc, Nat.add_assoc, storeBytes_array s a v (by omega), hmask _ (by omega)]
    split
    · have hindex : 4 * m + (j + k) - (4 * m + j) = k := by omega
      rw [readByte_overlayArray s ha v (by omega) (by omega) (by omega), hindex]
      exact BitVec.and_allOnes.symm
    · rw [readByte_past_array _ (by omega) (by omega)]
      exact BitVec.and_zero.symm

theorem readByte_dbuf (s : State) {o : Nat} (h : o < Config.dbufSize) : s.readByte (0x1000 + o) = s.dbufByte o := by
  rw [State.readByte, locate_dbuf h, State.readLoc]

/-! ### The steps that write a register, an array or DBUF -/

theorem Reg.offset_readWrite {r : Reg} (h : r.readWrite = true) :
    r.offset % 4 = 0 ∧ 4 ≤ r.offset ∧ r.offset < 0x3000 := by
  revert h
  cases r <;> decide

theorem step_write_register {s : State} {r : Reg} {v : Word} {rest : List HostEvent} (hbusy : s.busy = false)
    (hr : r.readWrite = true) (h : s.agenda = .write .w32 r.offset v :: rest) :
    step s = .next { s.storeReg r v with agenda := rest } := by
  obtain ⟨haligned, hlow, hhigh⟩ := Reg.offset_readWrite hr
  have hstore := storeBytes_register { s with agenda := rest } v (j := 0) (n := 4) hr (by decide)
  rw [overlayWord_full] at hstore
  rw [step_idle_write hbusy haligned hlow hhigh h]
  refine congrArg Host.Outcome.next (hstore.trans ?_)
  cases r <;> rfl

theorem ArrayReg.base_place (a : ArrayReg) : a.base % 4 = 0 ∧ 4 ≤ a.base ∧ a.base < 0x2000 := by
  cases a <;> decide

theorem step_write_array {s : State} {w : Width} {v : Word} {rest : List HostEvent} (a : ArrayReg) {i : Nat}
    (hbusy : s.busy = false) (haligned : (a.base + i) % w.bytes = 0) (hi : i < 16)
    (h : s.agenda = .write w (a.base + i) v :: rest) :
    step s = .next (State.overlayArray { s with agenda := rest } a i v w.bytes) := by
  obtain ⟨hword, hlow, hhigh⟩ := a.base_place
  have hfits := aligned_access_fits haligned (a.base / 4 + 4) (by omega)
  rw [step_idle_write hbusy haligned (by omega) (by omega) h, storeBytes_array _ a v (by omega)]

/-- Bytes overlaid on an array, by their offsets in the window. -/
theorem overlayVector_getD_eq_overlaid {m : Nat} (x : Vector Byte m) (base i : Nat) (w : Width) (v : Word) {j : Nat}
    (hj : j < m) :
    (overlayVector x i v w.bytes).toList.getD j 0 = overlaid w (base + i) v (base + j) (x.toList.getD j 0) := by
  rw [overlayVector_getD x i v _ hj, overlaid, Nat.add_sub_add_left]
  exact if_congr (by omega) rfl rfl

theorem step_write_dbuf {s : State} {w : Width} {i : Nat} {v : Word} {rest : List HostEvent} (hbusy : s.busy = false)
    (haligned : (0x1000 + i) % w.bytes = 0) (hi : i < Config.dbufSize)
    (h : s.agenda = .write w (0x1000 + i) v :: rest) :
    step s = .next { s with agenda := rest, dbuf := Memory.writeBytes s.dbuf i (busBytes v w.bytes) } := by
  have hsize : Config.dbufSize = 256 := rfl
  have hfits := aligned_access_fits haligned (0x1100 / 4) (by omega)
  rw [step_idle_write hbusy haligned (by omega) (by omega) h, storeBytes_dbuf _ v (by omega)]

/-- Bytes overlaid on DBUF, by their offsets in the window. -/
theorem dbufByte_writeBytes_eq_overlaid (s : State) (i : Nat) (w : Width) (v : Word) (o : Nat) :
    ({ s with dbuf := Memory.writeBytes s.dbuf i (busBytes v w.bytes) } : State).dbufByte o
      = overlaid w (0x1000 + i) v (0x1000 + o) (s.dbufByte o) := by
  rw [dbufByte_writeBytes, busBytes_length, overlaid, Nat.add_sub_add_left]
  refine ite_congr (propext (by omega)) (fun h => ?_) fun _ => rfl
  have hk : o - i < w.bytes := by omega
  simp [busBytes, hk, lane]

/-- The register list of the statement is the store of each read-write register. -/
theorem registerWrites_eq (s : State) (v : Word) :
    registerWrites s v = (Reg.all.filter Reg.readWrite).map fun r => (r.offset, s.storeReg r v) := by
  have hbyte : v.extractLsb' 0 8 = v.setWidth 8 := (BitVec.setWidth_eq_extractLsb' (by decide)).symm
  rw [registerWrites, hbyte]
  rfl

theorem writableWords_place : ∀ p ∈ writableWords, p.1 % 4 = 0 ∧ 4 ≤ p.1 ∧ p.1 < 0x3000 := by decide

/-- A read-write word written whole reads back with its reserved bits 0 (spec R11, R43). -/
theorem write_word_reads_back {s : State} {v : Word} {rest : List HostEvent} {p : Nat × Word} (hbusy : s.busy = false)
    (hp : p ∈ writableWords) (h : s.agenda = .write .w32 p.1 v :: rest) :
    ∃ t, step s = .next t ∧ t.busRead .w32 p.1 = v &&& p.2 := by
  obtain ⟨hword, hlow, hhigh⟩ := writableWords_place p hp
  refine ⟨_, step_idle_write hbusy hword hlow hhigh h, busRead_w32_eq hword fun k hk => ?_⟩
  have hbyte := readByte_storeBytes { s with agenda := rest } v hp (j := 0) hk (by decide)
  rwa [Nat.zero_add, ← lane_and] at hbyte

/-- Each byte of a read-write word that an aligned write covers reads back, its reserved bits 0 (spec R11, R44). An
aligned access lies in one word, so its offset is the word's and a lane. -/
theorem write_bytes_read_back {s : State} {w : Width} {ofs k : Nat} {v : Word} {rest : List HostEvent}
    {p : Nat × Word} (hbusy : s.busy = false) (haligned : ofs % w.bytes = 0) (hp : p ∈ writableWords) (hk : k < w.bytes)
    (hlow : p.1 ≤ ofs + k) (hhigh : ofs + k < p.1 + 4) (h : s.agenda = .write w ofs v :: rest) :
    ∃ t, step s = .next t
      ∧ t.readByte (ofs + k) = v.extractLsb' (8 * k) 8 &&& p.2.extractLsb' (8 * (ofs + k - p.1)) 8 := by
  obtain ⟨hword, hfirst, hlast⟩ := writableWords_place p hp
  have hbegin : p.1 ≤ ofs := by
    by_contra hbefore
    have := aligned_access_fits haligned (p.1 / 4) (by omega)
    omega
  have hfits := aligned_access_fits haligned (p.1 / 4 + 1) (by omega)
  obtain ⟨j, rfl⟩ := Nat.exists_eq_add_of_le hbegin
  have hindex : p.1 + j + k - p.1 = j + k := by omega
  refine ⟨_, step_idle_write hbusy haligned (by omega) (by omega) h, ?_⟩
  rw [hindex, Nat.add_assoc]
  exact readByte_storeBytes _ v hp hk (by omega)

/-- A byte written to DBUF is the low byte of the bus value (spec R43). -/
theorem write_dbuf_byte_reads_back {s : State} {o : Nat} {v : Word} {rest : List HostEvent} (hbusy : s.busy = false)
    (ho : o < Config.dbufSize) (h : s.agenda = .write .w8 (0x1000 + o) v :: rest) :
    ∃ t, step s = .next t ∧ t.dbufByte o = v.extractLsb' 0 8 ∧ t.readByte (0x1000 + o) = v.extractLsb' 0 8 := by
  have hbyte := dbufByte_writeBytes_eq_overlaid { s with agenda := rest } o .w8 v o
  rw [overlaid, if_pos ⟨Nat.le_refl _, Nat.lt_succ_self _⟩, Nat.sub_self] at hbyte
  exact ⟨_, step_write_dbuf hbusy (Nat.mod_one _) ho h, hbyte, (readByte_dbuf _ ho).trans hbyte⟩

/-- Settles O15: each clause by the lemma about the kind of location it writes. -/
theorem writesReadBack : Obligations.WritesReadBack := by
  intro s v rest hbusy
  refine ⟨fun p hp h => write_word_reads_back hbusy hp h, fun o ho h => write_dbuf_byte_reads_back hbusy ho h,
    fun p hp h => ?_, fun w ofs haligned h =>
    ⟨fun p hp k hk hlow hhigh => write_bytes_read_back hbusy haligned hp hk hlow hhigh h, fun hlow hhigh => ?_,
      fun hlow hhigh => ?_, fun hlow hhigh => ?_, fun hlow hhigh => ?_⟩⟩
  · rw [registerWrites_eq] at hp
    obtain ⟨r, hr, rfl⟩ := List.mem_map.mp hp
    exact step_write_register hbusy (List.mem_filter.mp hr).2 h
  · obtain ⟨i, rfl⟩ := Nat.exists_eq_add_of_le hlow
    exact ⟨_, step_write_array .key hbusy haligned (by omega) h,
      fun j hj => overlayVector_getD_eq_overlaid s.key 0x060 i w v hj⟩
  · obtain ⟨i, rfl⟩ := Nat.exists_eq_add_of_le hlow
    exact ⟨_, step_write_array .blkIn hbusy haligned (by omega) h,
      fun j hj => overlayVector_getD_eq_overlaid s.blkIn 0x070 i w v hj⟩
  · obtain ⟨i, rfl⟩ := Nat.exists_eq_add_of_le hlow
    exact ⟨_, step_write_array .nonce hbusy haligned (by omega) h,
      fun j hj => overlayVector_getD_eq_overlaid s.nonce 0x090 i w v hj⟩
  · obtain ⟨i, rfl⟩ := Nat.exists_eq_add_of_le hlow
    exact ⟨_, step_write_dbuf hbusy haligned (by omega) h,
      fun o => dbufByte_writeBytes_eq_overlaid { s with agenda := rest } i w v o⟩

end Sys2Proof.Machine

/-! PROOFS. Accesses that are discarded, and what an aligned read returns: the bytes of the register map (spec R10, R42,
R43, R45, R46). -/

namespace Sys2Proof.Machine

open Sys2Proof.Spec

/-! ### The step of an access in the window -/

theorem step_read {s : State} {w : Width} {ofs : Nat} {rest : List HostEvent} (hofs : ofs < 0x3000)
    (h : s.agenda = .read w ofs :: rest) : step s = .next (State.hostRead { s with agenda := rest } w ofs) := by
  rw [step_cons h, perform_read hofs]

theorem step_write {s : State} {w : Width} {ofs : Nat} {v : Word} {rest : List HostEvent} (hofs : ofs < 0x3000)
    (h : s.agenda = .write w ofs v :: rest) :
    step s = .next (State.hostWrite { s with agenda := rest } w ofs v) := by
  rw [step_cons h, perform_write hofs]

/-! ### Alignment and discarded accesses -/

theorem aligned_of_mod_eq {w : Width} {ofs : Nat} (h : ofs % w.bytes = 0) : w.aligned ofs = true := beq_iff_eq.mpr h

theorem not_aligned_of_mod_ne {w : Width} {ofs : Nat} (h : ofs % w.bytes ≠ 0) : w.aligned ofs = false :=
  beq_eq_false_iff_ne.mpr h

/-- An aligned access sets no flag. -/
theorem noteAlignment_of_aligned (s : State) {w : Width} {ofs : Nat} (h : ofs % w.bytes = 0) :
    s.noteAlignment w ofs = s := by
  simp [State.noteAlignment, aligned_of_mod_eq h]

/-- A misaligned access sets AERR (spec R42). -/
theorem noteAlignment_of_misaligned (s : State) {w : Width} {ofs : Nat} (h : ofs % w.bytes ≠ 0) :
    s.noteAlignment w ofs = { s with aerr := true } := by
  simp [State.noteAlignment, not_aligned_of_mod_ne h]

/-- A misaligned read returns 0 (spec R42). -/
theorem busRead_of_misaligned (s : State) {w : Width} {ofs : Nat} (h : ofs % w.bytes ≠ 0) : s.busRead w ofs = 0 := by
  simp [State.busRead, not_aligned_of_mod_ne h]

/-- Settles O12: a write while busy does no more than set WERR and note its alignment. -/
theorem writeWhileBusyIsDiscarded : Obligations.WriteWhileBusyIsDiscarded := by
  intro s w ofs v rest hbusy hofs h
  have hbusy' : State.busy { s with agenda := rest } = true := hbusy
  rw [step_write hofs h, hostWrite_busy w ofs v hbusy']
  refine ⟨fun haligned => ?_, fun hmisaligned => ?_⟩
  · rw [noteAlignment_of_aligned _ haligned]
  · rw [noteAlignment_of_misaligned _ hmisaligned]

/-- Settles O13: a misaligned access does no more than note its alignment, and a read then returns 0. -/
theorem misalignedAccessIsDiscarded : Obligations.MisalignedAccessIsDiscarded := by
  intro s w ofs v rest hmisaligned hofs
  refine ⟨fun hidle h => ?_, fun h => ?_⟩
  · have hidle' : State.busy { s with agenda := rest } = false := hidle
    rw [step_write hofs h, hostWrite_misaligned v hidle' (not_aligned_of_mod_ne hmisaligned),
      noteAlignment_of_misaligned _ hmisaligned]
  · rw [step_read hofs h, State.hostRead, noteAlignment_of_misaligned _ hmisaligned,
      busRead_of_misaligned _ hmisaligned]

/-! ### The bytes of a bus value -/

/-- Byte `k` of a number given by its little-endian bytes (spec R43). -/
theorem fromLe_digit (bs : Bytes) (k : Nat) : fromLe bs / 256 ^ k % 256 = (bs.getD k 0).toNat := by
  induction bs generalizing k with
  | nil => simp [fromLe]
  | cons b rest ih =>
    have hb : b.toNat < 256 := b.isLt
    cases k with
    | zero => simp only [fromLe, List.getD_cons_zero]; omega
    | succ k =>
      rw [List.getD_cons_succ, ← ih k, Nat.pow_succ', ← Nat.div_div_eq_div_mul, fromLe]
      congr 2
      omega

/-- A lane of a bus word built from bytes is the byte there, or 0 past the last of them (spec R43; log 11). -/
theorem lane_fromLe (bs : Bytes) {k : Nat} (hk : k < 4) : lane (BitVec.ofNat 32 (fromLe bs)) k = bs.getD k 0 := by
  refine BitVec.eq_of_toNat_eq ?_
  rw [← fromLe_digit bs k]
  simp only [lane, BitVec.extractLsb'_toNat, BitVec.toNat_ofNat, Nat.shiftRight_eq_div_pow]
  interval_cases k <;> omega

/-- The bytes an aligned read returns (spec R43; log 11). -/
theorem lane_busRead (s : State) {w : Width} {ofs k : Nat} (haligned : ofs % w.bytes = 0) (hk : k < 4) :
    lane (s.busRead w ofs) k = if k < w.bytes then s.readByte (ofs + k) else 0 := by
  rw [State.busRead, if_pos (aligned_of_mod_eq haligned), lane_fromLe _ hk]
  by_cases h : k < w.bytes <;> simp [h]

/-- What a read returns does not depend on the model's own agenda and read value (log 1, 7). -/
theorem busRead_agenda_readData (s : State) (rest : List HostEvent) (v : Word) (w : Width) (ofs : Nat) :
    ({ s with agenda := rest, readData := v } : State).busRead w ofs = s.busRead w ofs := rfl

/-- An aligned read changes nothing in the core (spec R45). -/
theorem step_aligned_read {s : State} {w : Width} {ofs : Nat} {rest : List HostEvent} (haligned : ofs % w.bytes = 0)
    (hofs : ofs < 0x3000) (h : s.agenda = .read w ofs :: rest) :
    step s = .next { s with agenda := rest, readData := s.busRead w ofs } := by
  rw [step_read hofs h, State.hostRead, noteAlignment_of_aligned _ haligned]
  rfl

/-! ### What stands in the window -/

theorem bitAt_getLsbD (b : Bool) {k i : Nat} (hi : i < 32) : (bitAt b k).getLsbD i = (decide (i = k) && b) := by
  cases b
  · simp [bitAt]
  · simp only [bitAt, if_true, BitVec.getLsbD_shiftLeft, BitVec.getLsbD_one]
    grind

theorem ConfigReg.word_eq_fields (c : ConfigReg) : c.word = c.decodeLevel.setWidth 32 ||| bitAt c.ie 8 := by
  refine BitVec.eq_of_getLsbD_eq fun i hi => ?_
  simp only [ConfigReg.word, bit, BitVec.getLsbD_append, BitVec.getLsbD_or, bitAt_getLsbD _ hi]
  interval_cases i <;> simp

theorem HdrFlags.word_eq_fields (h : HdrFlags) :
    h.word = bitAt h.srcValid 0 ||| bitAt h.ksnValid 1 ||| h.keySeq.setWidth 32 <<< 8 := by
  refine BitVec.eq_of_getLsbD_eq fun i hi => ?_
  simp only [HdrFlags.word, bit, BitVec.getLsbD_append, BitVec.getLsbD_or, bitAt_getLsbD _ hi]
  interval_cases i <;> simp

theorem KrArg.word_eq_fields (a : KrArg) :
    a.word = a.cls.setWidth 32 ||| bitAt a.origin 2 ||| a.slot.setWidth 32 <<< 8 := by
  refine BitVec.eq_of_getLsbD_eq fun i hi => ?_
  simp only [KrArg.word, bit, BitVec.getLsbD_append, BitVec.getLsbD_or, bitAt_getLsbD _ hi]
  interval_cases i <;> simp

theorem ResultInfo.word_eq_fields (r : ResultInfo) :
    r.word = r.slot.setWidth 32 ||| bitAt r.slotValid 8 ||| bitAt r.fromCache 9 ||| r.tried.setWidth 32 <<< 16 := by
  refine BitVec.eq_of_getLsbD_eq fun i hi => ?_
  simp only [ResultInfo.word, bit, BitVec.getLsbD_append, BitVec.getLsbD_or, bitAt_getLsbD _ hi]
  interval_cases i <;> simp

theorem RdMeta.word_eq_fields (m : RdMeta) :
    m.word = bitAt m.valid 0 ||| m.cls.setWidth 32 <<< 1 ||| bitAt m.origin 3 := by
  refine BitVec.eq_of_getLsbD_eq fun i hi => ?_
  simp only [RdMeta.word, bit, BitVec.getLsbD_append, BitVec.getLsbD_or, bitAt_getLsbD _ hi]
  interval_cases i <;> simp

/-- The words of the statement are what each register of the map reads, the two counts apart (spec R10). -/
theorem registerWords_eq (s : State) :
    registerWords s = (Reg.all.filter fun r => r ≠ .krCount ∧ r ≠ .fcCount).map fun r => (r.offset, s.regWord r) := by
  rw [registerWords, ← ConfigReg.word_eq_fields, ← HdrFlags.word_eq_fields, ← KrArg.word_eq_fields,
    ← ResultInfo.word_eq_fields, ← RdMeta.word_eq_fields]
  rfl

/-- A table's count in a 9-bit register is exact up to 511 entries (log 9). -/
theorem countWord_toNat {n : Nat} (h : n < 512) : ((BitVec.ofNat 9 n).setWidth 32).toNat = n := by
  rw [BitVec.toNat_setWidth, BitVec.toNat_ofNat]
  omega

theorem arrayBytesAt_eq (s : State) : arrayBytesAt s = ArrayReg.all.map fun a => (a.base, s.arrayBytes a) := rfl

@[simp] theorem arrayBytes_length (s : State) (a : ArrayReg) : (s.arrayBytes a).length = a.size := by
  cases a <;> exact Vector.length_toList

theorem readByte_obuf (s : State) {o : Nat} (h : o < Config.obufSize) : s.readByte (0x2000 + o) = s.obufByte o := by
  rw [State.readByte, locate_obuf h, State.readLoc]

/-- Settles O14: the value of an aligned read by its lanes, and each kind of location by the lemma that reads it. -/
theorem readsHaveNoSideEffects : Obligations.ReadsHaveNoSideEffects := by
  refine ⟨fun s w ofs rest haligned hofs h => ?_, fun s => ⟨fun p hp => ?_, fun hring => ?_, fun hcache => ?_,
    fun p hp i hi => ?_, fun o ho => readByte_dbuf s ho, fun o ho => readByte_obuf s ho⟩⟩
  · have hstep := step_aligned_read haligned hofs h
    refine ⟨s.busRead w ofs, hstep, fun k hk => lane_busRead s haligned hk, fun t ht => ?_⟩
    cases hstep.symm.trans ht
    exact busRead_agenda_readData s rest _ w ofs
  · rw [registerWords_eq] at hp
    obtain ⟨r, -, rfl⟩ := List.mem_map.mp hp
    exact busRead_register s r
  · have hcapacity : Config.krSlots = 32 := rfl
    exact (congrArg BitVec.toNat (busRead_register s .krCount)).trans (countWord_toNat (n := s.ring.length) (by omega))
  · have hcapacity : Config.fcSlots = 16 := rfl
    exact (congrArg BitVec.toNat (busRead_register s .fcCount)).trans (countWord_toNat (n := s.cache.length) (by omega))
  · rw [arrayBytesAt_eq] at hp
    obtain ⟨a, -, rfl⟩ := List.mem_map.mp hp
    exact readByte_array s a (arrayBytes_length s a ▸ hi)

end Sys2Proof.Machine

/-! PROOFS. What an aligned write while idle leaves: every byte it does not cover, read at any other location of the
map (spec R44, R144). -/

namespace Sys2Proof.Machine

open Sys2Proof.Spec

/-! ### STATUS by its lanes -/

/-- The low byte of STATUS: RESULT, DONE and BUSY (spec R13). -/
theorem lane_zero_statusWord (s : State) :
    lane s.statusWord 0 = s.result.bits ++ (0 : BitVec 2) ++ bit s.done ++ bit s.busy := by
  refine BitVec.eq_of_getLsbD_eq fun i hi => ?_
  simp only [lane, State.statusWord, bit, BitVec.getLsbD_extractLsb', BitVec.getLsbD_append]
  interval_cases i <;> simp

/-- The second byte of STATUS holds DETAIL (spec R13). -/
theorem lane_one_statusWord (s : State) : lane s.statusWord 1 = (0 : BitVec 4) ++ s.detail := by
  refine BitVec.eq_of_getLsbD_eq fun i hi => ?_
  simp only [lane, State.statusWord, bit, BitVec.getLsbD_extractLsb', BitVec.getLsbD_append]
  interval_cases i <;> simp

/-- The top byte of STATUS is reserved (spec R13). -/
theorem lane_three_statusWord (s : State) : lane s.statusWord 3 = 0 := by
  refine BitVec.eq_of_getLsbD_eq fun i hi => ?_
  simp only [lane, State.statusWord, bit, BitVec.getLsbD_extractLsb', BitVec.getLsbD_append]
  interval_cases i <;> simp

/-- Lane 2 apart, which has the flags and IRQ, a lane of STATUS depends on BUSY, RESULT and DETAIL, and lane 0 on DONE
as well (spec R13). -/
theorem lane_statusWord_congr {s t : State} {k : Nat} (hk : k < 4) (hirq : k ≠ 2) (hpending : t.pending = s.pending)
    (hresult : t.result = s.result) (hdetail : t.detail = s.detail) (hdone : k = 0 → t.done = s.done) :
    lane t.statusWord k = lane s.statusWord k := by
  obtain rfl | rfl | rfl : k = 0 ∨ k = 1 ∨ k = 3 := by omega
  · rw [lane_zero_statusWord, lane_zero_statusWord, State.busy, State.busy, hpending, hresult, hdone rfl]
  · rw [lane_one_statusWord, lane_one_statusWord, hdetail]
  · rw [lane_three_statusWord, lane_three_statusWord]

/-- Clearing bits of one lane of STATUS leaves the other lanes, lane 2 with its IRQ bit apart (spec R13, R44). -/
theorem lane_statusWord_clearStatus (s : State) {k k' : Nat} (b : Byte) (hk' : k' < 4) (hne : k' ≠ k)
    (hirq : k' ≠ 2) : lane (s.clearStatus (inLane k b)).statusWord k' = lane s.statusWord k' := by
  refine lane_statusWord_congr hk' hirq rfl rfl rfl fun hzero => ?_
  have hdone : (inLane k b).getLsbD 1 = false := by
    rw [inLane_getLsbD k b (by decide), decide_eq_false (by omega), Bool.false_and]
  rw [clearStatus_done, hdone, Bool.not_false, Bool.and_true]

/-! ### A register written -/

/-- A read-write register stored leaves every other register but STATUS, where IRQ follows CONFIG.IE (spec R144). -/
theorem regWord_storeReg_other (s : State) {r r' : Reg} (v : Word) (hne : r' ≠ r) (hstatus : r' ≠ .status) :
    (s.storeReg r v).regWord r' = s.regWord r' := by
  cases r'
  case status => exact absurd rfl hstatus
  all_goals cases r <;> trivial


/-- A lane of a read-write register written leaves its other lanes (spec R44). -/
theorem lane_regWord_writeRegByte (s : State) {r : Reg} {k k' : Nat} (b : Byte) (hr : r.readWrite = true) (hk' : k' < 4)
    (hne : k' ≠ k) : lane ((s.writeRegByte r k b).regWord r) k' = lane (s.regWord r) k' := by
  have hwrite := writeRegByte_storeReg s (s.regWord r) k b hr
  have hread := regWord_storeReg s (s.regWord r) hr
  rw [storeReg_regWord] at hwrite hread
  rw [hwrite, regWord_storeReg s _ hr, lane_and, lane_setLane _ _ hk', if_neg hne, ← lane_and, ← hread]

theorem storeReg_keeps_memory (s : State) (r : Reg) (v : Word) :
    (s.storeReg r v).arrayBytes = s.arrayBytes ∧ (s.storeReg r v).dbufByte = s.dbufByte
      ∧ (s.storeReg r v).obufByte = s.obufByte := by
  cases r <;> exact ⟨rfl, rfl, rfl⟩

/-- A byte written to STATUS clears bits there; at any other register it is a store of the register's word, which the
read-only ones ignore (spec R11, R13). -/
theorem writeRegByte_cases (s : State) (r : Reg) (k : Nat) (b : Byte) :
    (r = .status ∧ s.writeRegByte r k b = s.clearStatus (inLane k b))
    ∨ (r ≠ .status ∧ s.writeRegByte r k b = s.storeReg r (setLane (s.regWord r) k b)) := by
  cases r
  case status => exact .inl ⟨rfl, rfl⟩
  all_goals exact .inr ⟨nofun, rfl⟩

theorem regWord_clearStatus_other (s : State) (v : Word) {r : Reg} (h : r ≠ .status) :
    (s.clearStatus v).regWord r = s.regWord r := by
  cases r
  case status => exact absurd rfl h
  all_goals rfl

theorem lane_statusWord_storeReg (s : State) (r : Reg) (v : Word) {k : Nat} (hk : k < 4) (hirq : k ≠ 2) :
    lane (s.storeReg r v).statusWord k = lane s.statusWord k := by
  apply lane_statusWord_congr hk hirq
  all_goals cases r
  all_goals intros; rfl

/-- A byte written to a register leaves every other lane of the map's registers, STATUS lane 2 apart, whose IRQ bit
follows DONE and CONFIG.IE (spec R44, R144). -/
theorem lane_regWord_writeRegByte_other (s : State) {r r' : Reg} {k k' : Nat} (b : Byte) (hk' : k' < 4)
    (hne : r' = r → k' ≠ k) (hirq : r' = .status → k' ≠ 2) :
    lane ((s.writeRegByte r k b).regWord r') k' = lane (s.regWord r') k' := by
  obtain ⟨rfl, hw⟩ | ⟨hr, hw⟩ := writeRegByte_cases s r k b
  · rw [hw]
    by_cases hstatus : r' = .status
    · subst hstatus
      exact lane_statusWord_clearStatus s b hk' (hne rfl) (hirq rfl)
    · rw [regWord_clearStatus_other s _ hstatus]
  · by_cases hsame : r' = r
    · subst hsame
      cases hrw : r'.readWrite
      · rw [writeRegByte_readOnly s k b hrw hr]
      · exact lane_regWord_writeRegByte s b hrw hk' (hne rfl)
    · rw [hw]
      by_cases hstatus : r' = .status
      · subst hstatus
        exact lane_statusWord_storeReg s r _ hk' (hirq rfl)
      · rw [regWord_storeReg_other s _ hsame hstatus]

/-! ### One byte written, another read -/

/-- What is read at an offset depends on what stands there alone (spec R10). -/
theorem readByte_congr {s t : State} {o : Nat}
    (hreg : ∀ r k, k < 4 → o = Reg.offset r + k → lane (t.regWord r) k = lane (s.regWord r) k)
    (harray : ∀ a i, o = ArrayReg.base a + i → (t.arrayBytes a).getD i 0 = (s.arrayBytes a).getD i 0)
    (hdbuf : ∀ i, o = 0x1000 + i → t.dbufByte i = s.dbufByte i) (hobuf : ∀ i, t.obufByte i = s.obufByte i) :
    t.readByte o = s.readByte o := by
  rw [State.readByte, State.readByte]
  obtain ⟨r, k, hk, ho, hl⟩ | ⟨a, i, -, ho, hl⟩ | ⟨i, -, ho, hl⟩ | ⟨i, -, -, hl⟩ | hl := locate_cases o <;> rw [hl]
  · exact hreg r k hk ho
  · exact harray a i ho
  · exact hdbuf i ho
  · exact hobuf i
  · rfl

theorem writeRegByte_keeps_memory (s : State) (r : Reg) (k : Nat) (b : Byte) :
    (s.writeRegByte r k b).arrayBytes = s.arrayBytes ∧ (s.writeRegByte r k b).dbufByte = s.dbufByte
      ∧ (s.writeRegByte r k b).obufByte = s.obufByte := by
  obtain ⟨-, hw⟩ | ⟨-, hw⟩ := writeRegByte_cases s r k b <;> rw [hw]
  · exact ⟨rfl, rfl, rfl⟩
  · exact storeReg_keeps_memory s r _

/-- Byte 2 of STATUS, at 0x006, is the one byte that can change when another is written: its IRQ bit (spec R144). -/
theorem readByte_writeRegByte (s : State) {r : Reg} {k o : Nat} (b : Byte) (hne : o ≠ r.offset + k) (hirq : o ≠ 0x006) :
    (s.writeRegByte r k b).readByte o = s.readByte o := by
  obtain ⟨harray, hdbuf, hobuf⟩ := writeRegByte_keeps_memory s r k b
  refine readByte_congr (fun r' k' hk' ho => lane_regWord_writeRegByte_other s b hk' ?_ ?_)
    (fun a i _ => by rw [harray]) (fun i _ => by rw [hdbuf]) (fun i => by rw [hobuf])
  · rintro rfl rfl
    exact hne ho
  · rintro rfl rfl
    exact hirq ho

theorem getD_setIfInBounds {m : Nat} (x : Vector Byte m) {i j : Nat} (b : Byte) (h : j ≠ i) :
    (x.setIfInBounds i b).toList.getD j 0 = x.toList.getD j 0 := by
  by_cases hj : j < m <;> simp [hj, h.symm]

theorem arrayBytes_writeArrayByte (s : State) {a a' : ArrayReg} {i i' : Nat} (b : Byte) (hne : a' = a → i' ≠ i) :
    ((s.writeArrayByte a i b).arrayBytes a').getD i' 0 = (s.arrayBytes a').getD i' 0 := by
  by_cases hsame : a' = a
  · subst hsame
    cases a'
    case blkOut | digest | rdKey => rfl
    all_goals exact getD_setIfInBounds _ b (hne rfl)
  · cases a <;> cases a' <;> trivial

theorem readByte_writeArrayByte (s : State) {a : ArrayReg} {i o : Nat} (b : Byte) (hne : o ≠ a.base + i) :
    (s.writeArrayByte a i b).readByte o = s.readByte o := by
  have hkeeps : (s.writeArrayByte a i b).regWord = s.regWord ∧ (s.writeArrayByte a i b).dbufByte = s.dbufByte
      ∧ (s.writeArrayByte a i b).obufByte = s.obufByte := by cases a <;> exact ⟨rfl, rfl, rfl⟩
  obtain ⟨hreg, hdbuf, hobuf⟩ := hkeeps
  refine readByte_congr (fun r k _ _ => by rw [hreg]) (fun a' i' ho => arrayBytes_writeArrayByte s b ?_)
    (fun i _ => by rw [hdbuf]) (fun i => by rw [hobuf])
  rintro rfl rfl
  exact hne ho

theorem readByte_write_dbuf (s : State) {i o : Nat} (b : Byte) (hne : o ≠ 0x1000 + i) :
    ({ s with dbuf := Memory.write s.dbuf i b } : State).readByte o = s.readByte o := by
  refine readByte_congr (fun _ _ _ _ => rfl) (fun _ _ _ => rfl) (fun j ho => ?_) (fun _ => rfl)
  have hj : j ≠ i := by omega
  rw [State.dbufByte, State.dbufByte, read_write_other s.dbuf b hj]

/-- A byte written at one offset leaves what is read at every other, 0x006 apart (spec R44, R144). -/
theorem readByte_writeLoc_other (s : State) {p o : Nat} (b : Byte) (hne : o ≠ p) (hirq : o ≠ 0x006) :
    (s.writeLoc (locate p) b).readByte o = s.readByte o := by
  obtain ⟨r, k, -, rfl, hl⟩ | ⟨a, i, -, rfl, hl⟩ | ⟨i, -, rfl, hl⟩ | ⟨i, -, -, hl⟩ | hl := locate_cases p <;> rw [hl]
  · exact readByte_writeRegByte s b hne hirq
  · exact readByte_writeArrayByte s b hne
  · exact readByte_write_dbuf s b hne
  · rfl
  · rfl

/-! ### The bytes of an access written -/

theorem readByte_storeBytes_outside (s : State) {ofs o n : Nat} (v : Word) (hout : o < ofs ∨ ofs + n ≤ o)
    (hirq : o ≠ 0x006) : (s.storeBytes ofs v n).readByte o = s.readByte o := by
  induction n with
  | zero => rfl
  | succ n ih => rw [State.storeBytes, readByte_writeLoc_other _ _ (by omega) hirq, ih (by omega)]

/-- Settles O16: such a write stores the bytes it covers one by one, and each leaves the bytes at other offsets. -/
theorem writeChangesOnlyCoveredBytes : Obligations.WriteChangesOnlyCoveredBytes := by
  intro s w ofs v rest o hidle haligned hofs hcmd hout hirq h
  have hstore := hostWrite_store (s := { s with agenda := rest }) v hidle (aligned_of_mod_eq haligned) hcmd
  refine ⟨_, step_write hofs h, ?_⟩
  rw [hstore, readByte_storeBytes_outside _ v hout hirq]
  rfl

end Sys2Proof.Machine

/-! PROOFS. The output of a command that stores one: what it leaves of OBUF and of OUT_LEN, by the way it ends (spec
R24, R39, R104, R105, R128). -/

namespace Sys2Proof.Machine

/-- The code of a check of spec R103 or R118. -/
def ResultCode.isCheck : ResultCode → Bool
  | .badMicLen | .structErr | .bounds => true
  | _ => false

/-- The code of a command whose tag was tried and failed (spec R104, R126). -/
def ResultCode.isTagFailure : ResultCode → Bool
  | .authFail | .exhausted => true
  | _ => false

/-- The completion `t` of a command from `s` has stored its output below OUT_LEN, none at a check or a failed tag. -/
def OutputStored (s t : State) : Prop :=
  (∀ a, t.outLen.toNat ≤ a → t.obufByte a = s.obufByte a)
    ∧ (t.result.isCheck = true → t.outLen = s.outLen ∧ ∀ a, t.obufByte a = s.obufByte a)
    ∧ (t.result.isTagFailure = true → t.outLen = 0 ∧ ∀ a, t.obufByte a = s.obufByte a)

/-! ### The three ways to end -/

/-- Ending at a check stores nothing (spec R24). -/
theorem outputStored_check (s : State) {code : ResultCode} (detail : BitVec 4) (h : code.isCheck = true) :
    OutputStored s (s.finish code detail) := by
  refine ⟨fun _ _ => rfl, fun _ => ⟨rfl, fun _ => rfl⟩, fun hfailed => ?_⟩
  rw [finish_result] at hfailed
  cases code <;> cases h <;> cases hfailed

/-- Withholding the output stores nothing and sets OUT_LEN to 0 (spec R24, R39). -/
theorem outputStored_withhold {s t : State} (hlen : t.outLen = 0) (hobuf : t.obufByte = s.obufByte)
    (hcode : t.result.isCheck = false) : OutputStored s t := by
  refine ⟨fun _ _ => by rw [hobuf], fun hcheck => ?_, fun _ => ⟨hlen, fun _ => by rw [hobuf]⟩⟩
  rw [hcode] at hcheck
  cases hcheck

theorem obufByte_deliver_above (s : State) (out : Bytes) {a : Nat} (h : out.length ≤ a) :
    (s.deliver out).obufByte a = s.obufByte a :=
  (obufByte_obufWrite s 0 out a).trans (if_neg (by omega))

/-- Delivering an output stores it from OBUF offset 0, and OUT_LEN is its length (spec R24, R39). -/
theorem outputStored_deliver {s t : State} {out : Bytes} (hout : out.length < 2 ^ 32)
    (hlen : t.outLen = (s.deliver out).outLen) (hobuf : t.obufByte = (s.deliver out).obufByte)
    (hcheck : t.result.isCheck = false) (hfailed : t.result.isTagFailure = false) : OutputStored s t := by
  have hbound : t.outLen.toNat = out.length := by rw [hlen, deliver_outLen, BitVec.toNat_ofNat, Nat.mod_eq_of_lt hout]
  refine ⟨fun a ha => ?_, fun h => ?_, fun h => ?_⟩
  · rw [hobuf, obufByte_deliver_above s out (hbound ▸ ha)]
  · rw [hcheck] at h
    cases h
  · rw [hfailed] at h
    cases h

/-! ### The codes of the checks, and the lengths of the outputs -/

theorem ccmChecks_code (decrypting : Bool) (s : State) : ∀ c ∈ ccmChecks decrypting s, c.code.isCheck = true := by
  simp [ccmChecks, ResultCode.isCheck]

theorem frameChecks_code (s : State) : ∀ c ∈ frameChecks s, c.code.isCheck = true := by
  simp [frameChecks, ResultCode.isCheck]

theorem ccmTextLen_lt (s : State) (decrypting : Bool) : s.ccmTextLen decrypting < 2 ^ 32 := by
  have hpayload := s.payloadLen.isLt
  unfold State.ccmTextLen
  split <;> omega

/-- Past the checks of CCM_DEC or CCM_ENC the output fits OBUF (spec R103). -/
theorem ccmOutputLen_le_of_checks {s : State} {decrypting : Bool} (h : ∀ c ∈ ccmChecks decrypting s, c.fails = false) :
    s.ccmOutputLen decrypting ≤ Config.obufSize := by
  have hlast := h ⟨decide (Config.obufSize < s.ccmOutputLen decrypting), .bounds, 2⟩ (by simp [ccmChecks])
  exact Nat.not_lt.mp (of_decide_eq_false hlast)

theorem frameText_length_lt (s : State) : s.frameText.length < 2 ^ 32 := by
  have hpayload := s.payloadLen.isLt
  rw [frameText_length, State.frameTextLen]
  omega

/-- A successful attempt's output is as long as the frame's text (spec R123). -/
theorem attempt_length {s : State} {slot : Nat} {out : Bytes} (h : s.attempt slot = some out) :
    out.length = s.frameText.length := attemptWith_length h

/-! ### The commands -/

theorem execCcmDec_outputStored {s t : State} (h : execCcmDec s = .next t) : OutputStored s t := by
  obtain ⟨c, hc, -, hend⟩ | ⟨-, hend⟩ | ⟨-, m, hm, hend⟩ := execCcmDec_cases s <;> cases hend.symm.trans h
  · exact outputStored_check s c.detail (ccmChecks_code true s c hc)
  · exact outputStored_withhold rfl rfl rfl
  · exact outputStored_deliver (hm ▸ ccmTextLen_lt s true) rfl rfl rfl rfl

theorem execCcmEnc_outputStored {s t : State} (h : execCcmEnc s = .next t) : OutputStored s t := by
  obtain ⟨c, hc, -, hend⟩ | ⟨hpass, out, hout, hend⟩ := execCcmEnc_cases s <;> cases hend.symm.trans h
  · exact outputStored_check s c.detail (ccmChecks_code false s c hc)
  · have hfits : s.payloadLen.toNat + s.micLen.toNat ≤ 256 := ccmOutputLen_le_of_checks hpass
    exact outputStored_deliver (by omega) rfl rfl rfl rfl

theorem frameDecrypted_outputStored (s : State) (c : Candidate) (tried : Nat) {out : Bytes} (hout : out.length < 2 ^ 32) :
    OutputStored s (s.frameDecrypted c tried out) := by
  unfold State.frameDecrypted
  refine outputStored_deliver hout ?_ ?_ rfl rfl
  · rw [finish_outLen, rememberSuccess_outLen]
  · funext a
    simp [State.obufByte]

theorem frameExhausted_outputStored (s : State) (tried : Nat) : OutputStored s (s.frameExhausted tried) := by
  unfold State.frameExhausted
  split
  · exact outputStored_withhold rfl rfl rfl
  · exact outputStored_deliver (frameText_length_lt s) rfl rfl rfl rfl

theorem frameNoSource_outputStored (s : State) : OutputStored s s.frameNoSource := by
  unfold State.frameNoSource
  split
  · exact outputStored_withhold rfl rfl rfl
  · exact outputStored_deliver (frameText_length_lt s) rfl rfl rfl rfl

theorem decryptFrame_outputStored (s : State) : OutputStored s s.decryptFrame := by
  obtain ⟨c, hc, -, h⟩ | ⟨-, ⟨-, h⟩ | ⟨-, -, h⟩ | ⟨-, -, before, c, after, out, -, -, hout, h⟩ | ⟨-, -, -, h⟩⟩ :=
    decryptFrame_cases s <;> rw [h]
  · exact outputStored_check s c.detail (frameChecks_code s c hc)
  · exact outputStored_deliver (frameText_length_lt s) rfl rfl rfl rfl
  · exact frameNoSource_outputStored s
  · exact frameDecrypted_outputStored s c _ (attempt_length hout ▸ frameText_length_lt s)
  · exact frameExhausted_outputStored s _

/-- Settles O27: each of the three commands ends at a check, withholds its output, or delivers one. -/
theorem outputBytesLieBelowOutLen : Obligations.OutputBytesLieBelowOutLen := by
  intro i s t hi h
  have hstored : OutputStored s t := by
    obtain rfl | rfl | rfl := hi
    · exact execCcmDec_outputStored h
    · exact execCcmEnc_outputStored h
    · cases h
      exact decryptFrame_outputStored { s with resultInfo := ResultInfo.zero }
  obtain ⟨habove, hcheck, hfailed⟩ := hstored
  refine ⟨habove, fun hcode => hcheck ?_, fun hcode => hfailed ?_⟩
  · obtain hcode | hcode | hcode := hcode <;> rw [hcode] <;> rfl
  · obtain hcode | hcode := hcode <;> rw [hcode] <;> rfl

end Sys2Proof.Machine

/-! PROOFS. The command word: decoder and encoder are inverse to each other, and a word that no command encodes is an
error (spec R43, R54 to R58). -/

namespace Sys2Proof

/-! ### The fields of a word and its bytes -/

theorem cmdArg_commandWord (opc : Nat) (arg : Byte) : cmdArg (commandWord opc arg) = arg :=
  (BitVec.extractLsb'_append_eq_of_le (Nat.le_refl 8)).trans BitVec.extractLsb'_append_eq_right

theorem cmdOpc_commandWord (opc : Nat) (arg : Byte) : cmdOpc (commandWord opc arg) = BitVec.ofNat 8 opc :=
  BitVec.extractLsb'_append_eq_right

/-- A word is its three fields put together (spec R54). -/
theorem fields_append (w : Word) : cmdRsv w ++ cmdArg w ++ cmdOpc w = w := by
  unfold cmdRsv cmdArg cmdOpc
  rw [BitVec.extractLsb'_append_extractLsb'_eq_extractLsb' (show 16 = 8 + 8 from rfl)]
  exact BitVec.extractLsb'_append_extractLsb'

/-- A word whose reserved bits are zero is the command word of its opcode and ARG (spec R54). -/
theorem commandWord_eq {w : Word} {opc : Nat} (hrsv : cmdRsv w = 0) (hopc : cmdOpc w = BitVec.ofNat 8 opc) :
    commandWord opc (cmdArg w) = w := by
  rw [commandWord, ← hrsv, ← hopc, fields_append]

theorem wordOfBytes_bytesOfWord (w : Word) :
    wordOfBytes (w.extractLsb' 0 8) (w.extractLsb' 8 8) (w.extractLsb' 16 8) (w.extractLsb' 24 8) = w := by
  have hhigh : w.extractLsb' 24 8 ++ w.extractLsb' 16 8 = cmdRsv w :=
    BitVec.extractLsb'_append_extractLsb'_eq_extractLsb' rfl
  rw [wordOfBytes, hhigh]
  exact fields_append w

/-- Decoding the bytes of a word decodes the word and leaves what follows (spec R43). -/
theorem decode_bytesOfWord_append (w : Word) (rest : Bytes) :
    decode (bytesOfWord w ++ rest) = (decodeWord w).map (·, rest) := by
  simp only [bytesOfWord, List.cons_append, List.nil_append, decode, wordOfBytes_bytesOfWord]
  cases decodeWord w <;> rfl

/-! ### The rows of the opcode table -/

/-- A field that a mask keeps is the masked word's. -/
theorem extractLsb'_eq_of_and_eq {w mask pattern : Word} {start len : Nat} (h : w &&& mask = pattern)
    (hmask : mask.extractLsb' start len = BitVec.allOnes len) :
    w.extractLsb' start len = pattern.extractLsb' start len := by
  rw [← h, BitVec.extractLsb'_and, hmask, BitVec.and_allOnes]

/-- Every row's mask keeps the reserved bits and the opcode, so the row's words have those of its pattern (spec R56). -/
theorem fields_of_row {row : OpcodeRow} (hrow : row ∈ opcodeTable) {w : Word} (h : w &&& row.mask = row.pattern) :
    cmdRsv w = cmdRsv row.pattern ∧ cmdOpc w = cmdOpc row.pattern := by
  have hmask : ∀ row ∈ opcodeTable, cmdRsv row.mask = BitVec.allOnes 16 ∧ cmdOpc row.mask = BitVec.allOnes 8 := by
    decide
  obtain ⟨hrsv, hopc⟩ := hmask row hrow
  exact ⟨extractLsb'_eq_of_and_eq h hrsv, extractLsb'_eq_of_and_eq h hopc⟩

/-- DERIVE's row, the only one that leaves bits open: those of the selector (spec R56, R64). -/
def deriveRow : OpcodeRow := ⟨0xFFFF00FF, 0x00000004, .derive⟩

theorem eq_deriveRow {row : OpcodeRow} (hrow : row ∈ opcodeTable) (h : row.mask ≠ BitVec.allOnes 32) :
    row = deriveRow := by
  revert row
  simp [opcodeTable, deriveRow]

/-- Every selector stands in DERIVE's row: the row's mask clears it (spec R56, R64). -/
theorem commandWord_and_deriveRow_mask (sel : Byte) :
    commandWord 0x04 sel &&& deriveRow.mask = deriveRow.pattern :=
  calc commandWord 0x04 sel &&& deriveRow.mask
      = ((0 : BitVec 16) ++ sel ++ (0x04 : Byte)) &&& (BitVec.allOnes 16 ++ 0#8 ++ BitVec.allOnes 8) := rfl
    _ = (0 : BitVec 16) ++ 0#8 ++ (0x04 : Byte) := by
        rw [BitVec.and_append, BitVec.and_append, BitVec.and_allOnes, BitVec.and_allOnes, BitVec.and_zero]
    _ = deriveRow.pattern := rfl

/-- A word that belongs to a row is the encoding of the row's command with the word's selector (spec R56). -/
theorem encodeWord_of_row {row : OpcodeRow} (hrow : row ∈ opcodeTable) {w : Word} (h : w &&& row.mask = row.pattern) :
    encodeWord (row.instr (cmdArg w)) = w := by
  by_cases hmask : row.mask = BitVec.allOnes 32
  · have hexact : ∀ row ∈ opcodeTable, row.mask = BitVec.allOnes 32 →
        encodeWord (row.instr (cmdArg row.pattern)) = row.pattern := by decide
    rw [hmask, BitVec.and_allOnes] at h
    rw [h]
    exact hexact row hrow hmask
  · obtain rfl := eq_deriveRow hrow hmask
    obtain ⟨hrsv, hopc⟩ := fields_of_row hrow h
    exact commandWord_eq hrsv hopc

/-! ### Decoding and encoding -/

theorem find?_deriveRow (sel : Byte) :
    opcodeTable.find? (fun row => commandWord 0x04 sel &&& row.mask == row.pattern) = some deriveRow := by
  have hopc : ∀ row ∈ opcodeTable.take 4, cmdOpc row.pattern ≠ 0x04 := by decide
  refine List.find?_eq_some_iff_append.mpr ⟨beq_iff_eq.mpr (commandWord_and_deriveRow_mask sel), opcodeTable.take 4,
    opcodeTable.drop 5, rfl, fun row hrow => ?_⟩
  rw [Bool.not_eq_true', beq_eq_false_iff_ne]
  intro h
  exact hopc row hrow ((fields_of_row (List.mem_of_mem_take hrow) h).2.symm.trans (cmdOpc_commandWord 0x04 sel))

theorem decodeWord_encodeWord (i : Instr) : decodeWord (encodeWord i) = .ok i := by
  cases i with
  | derive sel =>
    rw [encodeWord, decodeWord, find?_deriveRow]
    exact congrArg (Except.ok ∘ Instr.derive) (cmdArg_commandWord 0x04 sel)
  | nop | ecbEnc | nonceBuild | hash | ccmDec | ccmEnc | krLoad | krClear | krRead | fcRemember | decryptFrame => rfl

theorem encodeWord_of_decodeWord {w : Word} {i : Instr} (h : decodeWord w = .ok i) : encodeWord i = w := by
  unfold decodeWord at h
  split at h
  next row hfind =>
    have hmatch := List.find?_some hfind
    cases h
    exact encodeWord_of_row (List.mem_of_find?_eq_some hfind) (beq_iff_eq.mp hmatch)
  next => cases h

theorem decodeWord_eq_ok_iff {w : Word} {i : Instr} : decodeWord w = .ok i ↔ encodeWord i = w :=
  ⟨encodeWord_of_decodeWord, fun h => h ▸ decodeWord_encodeWord i⟩

/-- Settles O1: the four bytes are the command's word again, and that word decodes to the command. -/
theorem decodeOfEncodeGivesTheCommand : Obligations.DecodeOfEncodeGivesTheCommand := by
  intro i rest
  rw [encode, decode_bytesOfWord_append, decodeWord_encodeWord]
  rfl

/-- Every command's encoding is legal and four bytes long (spec R57, R58). -/
theorem encodes_legal (i : Instr) : Laws.EncodesLegal.Statement i := by
  cases i with
  | nop => exact Laws.EncodesLegal.nop
  | ecbEnc => exact Laws.EncodesLegal.ecbEnc
  | nonceBuild => exact Laws.EncodesLegal.nonceBuild
  | hash => exact Laws.EncodesLegal.hash
  | derive sel => exact Laws.EncodesLegal.derive sel
  | ccmDec => exact Laws.EncodesLegal.ccmDec
  | ccmEnc => exact Laws.EncodesLegal.ccmEnc
  | krLoad => exact Laws.EncodesLegal.krLoad
  | krClear => exact Laws.EncodesLegal.krClear
  | krRead => exact Laws.EncodesLegal.krRead
  | fcRemember => exact Laws.EncodesLegal.fcRemember
  | decryptFrame => exact Laws.EncodesLegal.decryptFrame

/-- What decodes to a command is legal, being its encoding (spec R57, R58). -/
theorem wellFormedWord_of_decodeWord {w : Word} {i : Instr} (h : decodeWord w = .ok i) : wellFormedWord w = true := by
  rw [← encodeWord_of_decodeWord h]
  exact (encodes_legal i).1

/-- Settles O2: a word decodes to the command it encodes, and what decodes to a command is legal. -/
theorem legalWordsAreExactlyTheCommands : Obligations.LegalWordsAreExactlyTheCommands := by
  refine ⟨fun w => ⟨fun i => ?_, fun hillegal => ?_⟩, fun i => (encodes_legal i).2⟩
  · exact ⟨fun h => ⟨wellFormedWord_of_decodeWord h, encodeWord_of_decodeWord h⟩,
      fun ⟨_, h⟩ => decodeWord_eq_ok_iff.mpr h⟩
  · cases hdecode : decodeWord w with
    | error e => exact ⟨e, rfl⟩
    | ok i => exact absurd (wellFormedWord_of_decodeWord hdecode) (Bool.eq_false_iff.mp hillegal)

/-- Settles O3: the legal words are encodings, and each illegal one is refused on its own ground. -/
theorem writtenOutWordsDecode : Obligations.WrittenOutWordsDecode :=
  ⟨decodeWord_encodeWord .nop, decodeWord_encodeWord .ecbEnc, decodeWord_encodeWord .nonceBuild,
    decodeWord_encodeWord (.derive 0x02), decodeWord_encodeWord (.derive 0xFF), decodeWord_encodeWord .ccmEnc,
    decodeWord_encodeWord .fcRemember, decodeWord_encodeWord .decryptFrame, rfl, rfl, rfl⟩

end Sys2Proof

/-! PROOFS. The host's run of a command: issue, polls, the engine's turn and the last read (spec R66, R135, R136,
R157). -/

namespace Sys2Proof.Machine

open Sys2Proof.Spec

/-- A run takes its first step and goes on from there. -/
theorem run_succ_of_step {s t : State} (h : step s = .next t) (k : Nat) :
    Host.Core.run core (k + 1) s = Host.Core.run core k t := by
  have hcore : core.step s = .next t := h
  simp only [Host.Core.run, hcore]

/-- No command writes the agenda, as `commandsNeverWriteTheirOperands` says among its other fields. -/
theorem exec_keeps_agenda {i : Instr} {s t : State} (h : exec i s = .next t) : t.agenda = s.agenda := by
  obtain ⟨-, -, -, -, -, -, -, -, -, -, -, -, -, -, -, -, -, -, -, -, hagenda, -⟩ :=
    commandsNeverWriteTheirOperands i s t h
  exact hagenda

/-- Every command completes: the core is idle, DONE is set, and the host's accesses still stand (spec R136, R137). -/
theorem exec_completes (i : Instr) (s : State) :
    ∃ t, exec i s = .next t ∧ t.busy = false ∧ t.done = true ∧ t.agenda = s.agenda := by
  obtain ⟨u, code, detail, -, h⟩ := exec_writes i s
  exact ⟨_, h, rfl, rfl, exec_keeps_agenda h⟩

/-- The host's write of a word to CMD of an idle core issues it (spec R12, R135). -/
theorem step_command {s : State} (hidle : s.busy = false) (w : Word) (rest : List HostEvent) :
    step { s with agenda := .write .w32 0x000 w :: rest } = .next (State.issue { s with agenda := rest } w) := by
  have hidle' : State.busy { s with agenda := rest } = false := hidle
  rw [step_write (by decide) rfl, hostWrite_command w hidle']

/-- A poll of STATUS changes what the host has read and nothing in the core (spec R45). -/
theorem step_poll {s : State} {rest : List HostEvent} (h : s.agenda = .read .w32 (Reg.offset .status) :: rest) :
    step s = .next { s with agenda := rest, readData := s.statusWord } := by
  rw [step_aligned_read rfl (by decide) h, busRead_register, State.regWord]

/-- Polls use up their own part of the agenda and keep the pending command (spec R45, R66). -/
theorem run_polls {s : State} {polls : Nat} {rest : List HostEvent}
    (h : s.agenda = List.replicate polls (.read .w32 (Reg.offset .status)) ++ rest) (k : Nat) :
    ∃ t : State, Host.Core.run core (polls + k) s = Host.Core.run core k t
      ∧ t.agenda = rest ∧ t.pending = s.pending := by
  induction polls generalizing s with
  | zero => exact ⟨s, by rw [Nat.zero_add], h, rfl⟩
  | succ polls ih =>
    rw [Nat.add_right_comm, run_succ_of_step (step_poll h)]
    exact ih (s := { s with
      agenda := List.replicate polls (.read .w32 (Reg.offset .status)) ++ rest, readData := s.statusWord }) rfl

/-- An idle core with DONE set shows it in the two low bits of STATUS (spec R13). -/
theorem statusWord_low_of_done {s : State} (hbusy : s.busy = false) (hdone : s.done = true) :
    s.statusWord.extractLsb' 0 2 = 0b10#2 := by
  obtain ⟨hbit0, hbit1, -⟩ := statusWord_bits s
  refine field_eq_of_bits fun i hi => ?_
  interval_cases i
  · exact hbit0.trans hbusy
  · exact hbit1.trans hdone

/-- Settles O9: the write to CMD, the polls, the engine's turn and the last read, one after another. -/
theorem runOfACommandSeesItsCompletion : Obligations.RunOfACommandSeesItsCompletion := by
  intro s i polls hidle
  have hissue := step_command hidle (encodeWord i) (hostWait polls)
  obtain ⟨t, hpolls, hagenda, hpending⟩ :=
    run_polls (s := State.issue { s with agenda := hostWait polls } (encodeWord i)) rfl 2
  have hturn : completesNext t i :=
    ⟨.inr (by rw [hagenda, List.head?_cons]), encodeWord i, hpending, decodeWord_encodeWord i⟩
  obtain ⟨u, hexec, hbusy, hdone, hlast⟩ := exec_completes i { t with agenda := t.agenda.tail }
  have hread : u.agenda = [.read .w32 (Reg.offset .status)] := by rw [hlast, hagenda, List.tail_cons]
  refine ⟨{ u with agenda := [], readData := u.statusWord }, ?_, rfl, hbusy, hdone, ?_⟩
  · calc Host.Core.run core (polls + 3) { s with agenda := hostRun i polls }
        = Host.Core.run core (polls + 2) (State.issue { s with agenda := hostWait polls } (encodeWord i)) :=
          run_succ_of_step hissue _
      _ = Host.Core.run core 2 t := hpolls
      _ = Host.Core.run core 1 u := run_succ_of_step ((step_completes hturn).trans hexec) _
      _ = .next { u with agenda := [], readData := u.statusWord } := run_succ_of_step (step_poll hread) _
  · exact statusWord_low_of_done hbusy hdone

end Sys2Proof.Machine

/-! PROOFS. The AES block cipher in the indices of the spec: field products, the S-box, the round transformations, the
key words and the ten rounds (spec R67, R70 to R75). -/

namespace Sys2Proof.Machine

open Sys2Proof.Spec

/-! ### Field arithmetic and the S-box (spec R71, R72) -/

/-- Bit 0 of the second factor selects the first; its other bits multiply the first's xtime. -/
theorem gfMulUpTo_succ (n : Nat) (a b : Byte) :
    gfMulUpTo (n + 1) a b = (if b.getLsbD 0 then a else 0) ^^^ gfMulUpTo n (xtime a) (b >>> 1) := rfl

theorem gfMulUpTo_zero_right (n : Nat) (a : Byte) : gfMulUpTo n a 0 = 0 := by
  induction n generalizing a with
  | zero => rfl
  | succ n ih => simpa [gfMulUpTo_succ] using ih (xtime a)

theorem gfMul_two (a : Byte) : gfMul a 2 = xtime a := by
  rw [gfMul, gfMulUpTo_succ, gfMulUpTo_succ, show ((2 : Byte) >>> 1 >>> 1) = 0 from rfl, gfMulUpTo_zero_right]
  simp

theorem gfMul_three (a : Byte) : gfMul a 3 = xtime a ^^^ a := by
  rw [gfMul, gfMulUpTo_succ, gfMulUpTo_succ, show ((3 : Byte) >>> 1 >>> 1) = 0 from rfl, gfMulUpTo_zero_right]
  simp [BitVec.xor_comm]

theorem rotateLeft_xor (x y : Byte) (n : Nat) : (x ^^^ y).rotateLeft n = x.rotateLeft n ^^^ y.rotateLeft n := by
  ext i hi
  simp only [BitVec.getElem_xor, BitVec.getElem_rotateLeft]
  split <;> rfl

theorem rotateLeft_rotateLeft (x : Byte) (m n : Nat) :
    (x.rotateLeft m).rotateLeft n = x.rotateLeft ((m + n) % 8) := by
  ext i hi
  simp only [BitVec.getElem_rotateLeft]
  split <;> split <;> split <;> congr 1 <;> omega

/-- The inverse of the linear map A of the S-box (spec R72). -/
def sboxAffineInverse (z : Byte) : Byte := z.rotateLeft 1 ^^^ z.rotateLeft 3 ^^^ z.rotateLeft 6

/-- In A(A⁻¹(z)) every rotation of z but the one by 0 occurs an even number of times. -/
theorem sboxAffine_sboxAffineInverse (z : Byte) : sboxAffine (sboxAffineInverse z) = z := by
  have cancel (x y : Byte) : x ^^^ (x ^^^ y) = y := by rw [← BitVec.xor_assoc, BitVec.xor_self, BitVec.zero_xor]
  have left_comm (x y w : Byte) : x ^^^ (y ^^^ w) = y ^^^ (x ^^^ w) := by ac_rfl
  have turn : z.rotateLeft 0 = z := by ext; simp [BitVec.getElem_rotateLeft]
  simp only [sboxAffine, sboxAffineInverse, rotateLeft_xor, rotateLeft_rotateLeft, BitVec.xor_assoc, Nat.reduceAdd,
    Nat.reduceMod, turn]
  simp only [BitVec.xor_comm, left_comm, cancel, BitVec.xor_self, BitVec.xor_zero]

/-- The table, entry by entry: with 0x63 and A undone, S-box[x] is the field inverse of x. -/
theorem gfMul_sboxAffineInverse_sbox :
    ∀ x : Byte, x ≠ 0 → gfMul x (sboxAffineInverse (sbox x ^^^ 0x63)) = 1 := by decide +kernel

/-- Settles O30: the inverse of x is read off its table entry, so the affine map gives that entry back. -/
theorem sboxIsTheAffineMapOfTheInverse : Obligations.SboxIsTheAffineMapOfTheInverse := by
  refine ⟨fun x hx => ⟨sboxAffineInverse (sbox x ^^^ 0x63), gfMul_sboxAffineInverse_sbox x hx, ?_⟩, by decide,
    fun a => ⟨gfMul_two a, gfMul_three a⟩⟩
  rw [sboxAffine_sboxAffineInverse, BitVec.xor_assoc, BitVec.xor_self, BitVec.xor_zero]

/-! ### The state by rows and columns (spec R70, R73) -/

/-- Column c of the state, a key word of a round key (spec R70, R74). -/
def columnAt (s : AesState) (c : Nat) : Column := [s.c0, s.c1, s.c2, s.c3].getD c ⟨0, 0, 0, 0⟩

theorem cell_eq_row_columnAt (s : AesState) (r c : Nat) : cell s r c = row (columnAt s c) r := rfl

theorem row_xor (v w : Column) {r : Nat} (hr : r < 4) : row (v.xor w) r = row v r ^^^ row w r := by
  interval_cases r <;> rfl

theorem row_sub (w : Column) {r : Nat} (hr : r < 4) : row w.sub r = sbox (row w r) := by
  interval_cases r <;> rfl

theorem row_rot (w : Column) {r : Nat} (hr : r < 4) : row w.rot r = row w ((r + 1) % 4) := by
  interval_cases r <;> rfl

theorem columnAt_subBytes (s : AesState) {c : Nat} (hc : c < 4) : columnAt s.subBytes c = (columnAt s c).sub := by
  interval_cases c <;> rfl

theorem columnAt_mixColumns (s : AesState) {c : Nat} (hc : c < 4) :
    columnAt s.mixColumns c = (columnAt s c).mix := by
  interval_cases c <;> rfl

theorem columnAt_addRoundKey (s k : AesState) {c : Nat} (hc : c < 4) :
    columnAt (s.addRoundKey k) c = (columnAt s c).xor (columnAt k c) := by
  interval_cases c <;> rfl

theorem cell_shiftRows (s : AesState) {r c : Nat} (hr : r < 4) (hc : c < 4) :
    cell s.shiftRows r c = cell s r ((c + r) % 4) := by
  interval_cases r <;> interval_cases c <;> rfl

/-- MixColumns on one column, with its coefficients as field products (spec R73). -/
theorem column_mix (w : Column) :
    w.mix = ⟨gfMul w.r0 2 ^^^ gfMul w.r1 3 ^^^ w.r2 ^^^ w.r3,
      w.r0 ^^^ gfMul w.r1 2 ^^^ gfMul w.r2 3 ^^^ w.r3,
      w.r0 ^^^ w.r1 ^^^ gfMul w.r2 2 ^^^ gfMul w.r3 3,
      gfMul w.r0 3 ^^^ w.r1 ^^^ w.r2 ^^^ gfMul w.r3 2⟩ := by
  simp only [gfMul_two, gfMul_three, Column.mix, times3]

/-- Settles O31: each transformation on a column, then on the rows of that column. -/
theorem roundTransformationsByIndex : Obligations.RoundTransformationsByIndex := by
  intro s k c hc
  refine ⟨fun r hr => ⟨?_, cell_shiftRows s hr hc, ?_⟩, ?_⟩
  · rw [cell_eq_row_columnAt, columnAt_subBytes s hc, row_sub _ hr, cell_eq_row_columnAt]
  · rw [cell_eq_row_columnAt, columnAt_addRoundKey s k hc, row_xor _ _ hr, cell_eq_row_columnAt, cell_eq_row_columnAt]
  · simp only [cell_eq_row_columnAt, columnAt_mixColumns s hc, column_mix]
    exact ⟨rfl, rfl, rfl, rfl⟩

/-- A block is loaded column by column (spec R70). -/
theorem cell_loadState (b : Block) {r c : Nat} (hr : r < 4) (hc : c < 4) :
    cell (loadState b) r c = b.toList.getD (r + 4 * c) 0 := by
  have getD_eq (i : Nat) (hi : i < 16) : b.toList.getD i 0 = b[i] := by simp [hi]
  rw [getD_eq _ (by omega)]
  interval_cases r <;> interval_cases c <;> rfl

/-- A block is read out column by column (spec R70). -/
theorem unloadState_getD (s : AesState) {r c : Nat} (hr : r < 4) (hc : c < 4) :
    (unloadState s).toList.getD (r + 4 * c) 0 = cell s r c := by
  interval_cases r <;> interval_cases c <;> rfl

/-! ### The key words (spec R74) -/

/-- The first word of the next round key: t is the last word, rotated, substituted and with Rcon added. -/
theorem columnAt_nextRoundKey_zero (k : AesState) (rc : Byte) :
    columnAt (nextRoundKey k rc) 0 = (columnAt k 0).xor ((columnAt k 3).scheduleCore rc) := rfl

/-- Each further word of the next round key: t is the word before it. -/
theorem columnAt_nextRoundKey_succ (k : AesState) (rc : Byte) {c : Nat} (hc : c < 3) :
    columnAt (nextRoundKey k rc) (c + 1) = (columnAt k (c + 1)).xor (columnAt (nextRoundKey k rc) c) := by
  interval_cases c <;> rfl

theorem row_scheduleCore (w : Column) (rc : Byte) {b : Nat} (hb : b < 4) :
    row (w.scheduleCore rc) b = sbox (row w ((b + 1) % 4)) ^^^ (if b = 0 then rc else 0) := by
  rw [Column.scheduleCore, row_xor _ _ hb, row_sub _ hb, row_rot _ hb]
  interval_cases b <;> rfl

theorem expandKey_length (k : AesState) (rcs : List Byte) : (expandKey k rcs).length = rcs.length := by
  induction rcs generalizing k with
  | nil => rfl
  | cons rc rest ih => simp [expandKey, ih]

/-- Each round key is made from the one before it and its own Rcon. -/
theorem expandKey_getD_succ (k d : AesState) {rcs : List Byte} {j : Nat} (hj : j < rcs.length) :
    (k :: expandKey k rcs).getD (j + 1) d = nextRoundKey ((k :: expandKey k rcs).getD j d) (rcs.getD j 0) := by
  induction rcs generalizing k j with
  | nil => exact absurd hj (Nat.not_lt_zero j)
  | cons rc rest ih =>
    cases j with
    | zero => rfl
    | succ j => exact ih _ (Nat.lt_of_succ_lt_succ hj)

/-- Round keys written out word by word: word 4j + c is column c of round key j. -/
theorem getD_flatMap_columns (keys : List AesState) (d : AesState) (j : Nat) {c : Nat} (hc : c < 4)
    (hj : j < keys.length) :
    (keys.flatMap fun k => [k.c0, k.c1, k.c2, k.c3]).getD (4 * j + c) ⟨0, 0, 0, 0⟩ = columnAt (keys.getD j d) c := by
  induction keys generalizing j with
  | nil => exact absurd hj (Nat.not_lt_zero j)
  | cons k rest ih =>
    cases j with
    | zero => interval_cases c <;> rfl
    | succ j =>
      rw [show 4 * (j + 1) + c = 4 * j + c + 4 by ring]
      exact ih j (Nat.lt_of_succ_lt_succ hj)

theorem roundKeys_length (k : Block) : (roundKeys k).length = 10 := expandKey_length _ rcon

/-- Round key j of a key, j = 0 to 10 (spec R74). -/
def roundKey (k : Block) (j : Nat) : AesState := (loadState k :: roundKeys k).getD j (loadState k)

theorem roundKey_succ (k : Block) {j : Nat} (hj : j < 10) :
    roundKey k (j + 1) = nextRoundKey (roundKey k j) (rcon.getD j 0) := expandKey_getD_succ _ _ hj

/-- w[i] of a key, i = 0 to 43 (spec R74). -/
def keyWord (k : Block) (i : Nat) : Column := (keyWords k).getD i ⟨0, 0, 0, 0⟩

/-- Round key j is w[4j..4j+3] (spec R74). -/
theorem keyWord_eq_columnAt (k : Block) {j c : Nat} (hj : j < 11) (hc : c < 4) :
    keyWord k (4 * j + c) = columnAt (roundKey k j) c :=
  getD_flatMap_columns _ _ _ hc (by rwa [List.length_cons, roundKeys_length])

theorem keyWords_length (k : Block) : (keyWords k).length = 44 := by
  simp [keyWords, List.length_flatMap, roundKeys_length]

theorem row_keyWord_of_lt_four (k : Block) {i b : Nat} (hi : i < 4) (hb : b < 4) :
    row (keyWord k i) b = k.toList.getD (4 * i + b) 0 := by
  have hword := keyWord_eq_columnAt k (j := 0) (by decide) hi
  rw [Nat.mul_zero, Nat.zero_add] at hword
  rw [hword, Nat.add_comm, ← cell_loadState k hb hi]
  rfl

/-- The recurrence of R74 on whole words. -/
theorem keyWord_recurrence (k : Block) {i : Nat} (hlo : 4 ≤ i) (hhi : i < 44) :
    keyWord k i = (keyWord k (i - 4)).xor
      (if i % 4 = 0 then (keyWord k (i - 1)).scheduleCore (rcon.getD (i / 4 - 1) 0) else keyWord k (i - 1)) := by
  obtain ⟨j, c, hj, hc, rfl⟩ : ∃ j c, j < 10 ∧ c < 4 ∧ i = 4 * (j + 1) + c :=
    ⟨i / 4 - 1, i % 4, by omega, by omega, by omega⟩
  have hback : 4 * (j + 1) + c - 4 = 4 * j + c := by omega
  rw [hback, keyWord_eq_columnAt k (by omega) hc, keyWord_eq_columnAt k (by omega) hc, roundKey_succ k hj]
  cases c with
  | zero =>
    have hprev : 4 * (j + 1) + 0 - 1 = 4 * j + 3 := by omega
    have hround : (4 * (j + 1) + 0) / 4 - 1 = j := by omega
    rw [if_pos (by omega), hprev, hround, keyWord_eq_columnAt k (by omega) (by decide), columnAt_nextRoundKey_zero]
  | succ c =>
    have hprev : 4 * (j + 1) + (c + 1) - 1 = 4 * (j + 1) + c := by omega
    rw [if_neg (by omega), hprev, keyWord_eq_columnAt k (by omega) (by omega), roundKey_succ k hj,
      columnAt_nextRoundKey_succ _ _ (by omega)]

/-- Settles O32: the recurrence on words, read row by row. -/
theorem keyExpansionRecurrence : Obligations.KeyExpansionRecurrence := by
  refine fun k => ⟨keyWords_length k, fun i hi b hb => row_keyWord_of_lt_four k hi hb, fun i hlo hhi b hb => ?_⟩
  have hrow := congrArg (row · b) (keyWord_recurrence k hlo hhi)
  simp only [row_xor _ _ hb, apply_ite (row · b), row_scheduleCore _ _ hb] at hrow
  exact hrow

/-! ### The rounds (spec R75) -/

/-- With n + 1 round keys there are n full rounds, then the one without MixColumns. -/
theorem aesRounds_eq_foldl (d : AesState) {n : Nat} {keys : List AesState} (h : keys.length = n + 1) (s : AesState) :
    aesRounds keys s
      = ((List.range n).foldl (fun st j => st.subBytes.shiftRows.mixColumns.addRoundKey (keys.getD j d)) s
          ).subBytes.shiftRows.addRoundKey (keys.getD n d) := by
  induction n generalizing keys s with
  | zero =>
    obtain ⟨k, rfl⟩ := List.length_eq_one_iff.mp h
    rfl
  | succ n ih =>
    obtain ⟨k, k', rest, rfl⟩ : ∃ k k' rest, keys = k :: k' :: rest := by
      match keys, h with
      | k :: k' :: rest, _ => exact ⟨k, k', rest, rfl⟩
    rw [List.range_succ_eq_map, List.foldl_cons, List.foldl_map]
    exact ih (Nat.succ.inj h) _

/-- Settles O33: ten round keys, hence nine full rounds and the last; and the byte mapping both ways. -/
theorem aesIsTheTenRounds : Obligations.AesIsTheTenRounds :=
  ⟨fun k b => by rw [aes, aesRounds_eq_foldl (loadState k) (roundKeys_length k)],
    fun b _ _ hr hc => cell_loadState b hr hc, fun s _ _ hr hc => unloadState_getD s hr hc⟩

/-- Settles O29: ECB_ENC is a write of BLK_OUT and the completion with OK. -/
theorem ecbEncEffect : Obligations.EcbEncEffect := ⟨decodeWord_encodeWord .ecbEnc, fun _ => rfl⟩

end Sys2Proof.Machine

/-! PROOFS. The effective control byte and the nonce made from it (spec R59 to R61, R76 to R80). -/

namespace Sys2Proof.Machine

/-! ### The control byte by its fields -/

/-- The mask 0xF8 keeps bits 7:3 and clears the level (spec R76). -/
theorem and_F8_eq_append (x : Byte) : x &&& 0xF8 = x.extractLsb' 3 5 ++ (0 : BitVec 3) := by
  refine BitVec.eq_of_getLsbD_eq fun i hi => ?_
  rw [BitVec.getLsbD_append, BitVec.getLsbD_extractLsb']
  interval_cases i <;> simp

/-- The effective control byte is bits 7:3 of SEC_CTRL above DECODE_LEVEL (spec R76). -/
theorem effCtrl_eq_append (s : State) : s.effCtrl = s.secCtrl.extractLsb' 3 5 ++ s.config.decodeLevel := by
  rw [State.effCtrl, and_F8_eq_append]
  refine BitVec.eq_of_getLsbD_eq fun i hi => ?_
  simp only [BitVec.getLsbD_or, BitVec.getLsbD_append, BitVec.getLsbD_setWidth]
  split
  · simp [hi]
  · simp [BitVec.getLsbD_of_ge s.config.decodeLevel i (by omega)]

/-- The level is read from DECODE_LEVEL alone (spec R77). -/
theorem level_eq_decodeLevel (s : State) : s.level = SecurityLevel.ofBits s.config.decodeLevel := by
  rw [State.level, ctrlLevel, effCtrl_eq_append, BitVec.extractLsb'_append_eq_right]

/-- The key id lies in bits 7:3 of a control byte (spec R59). -/
theorem ctrlKeyId_eq (x : Byte) : ctrlKeyId x = KeyId.ofBits ((x.extractLsb' 3 5).extractLsb' 0 2) := by
  rw [ctrlKeyId]
  congr 1
  refine BitVec.eq_of_getLsbD_eq fun i hi => ?_
  interval_cases i <;> simp

/-- The effective control byte has the key id of SEC_CTRL (spec R78). -/
theorem frameKeyId_eq_secCtrl (s : State) : s.frameKeyId = ctrlKeyId s.secCtrl := by
  rw [State.frameKeyId, ctrlKeyId_eq, effCtrl_eq_append, BitVec.extractLsb'_append_eq_left, ctrlKeyId_eq]

/-- A key's code is the number it is read from (spec R61). -/
theorem KeyId.bits_ofBits : ∀ b : BitVec 2, (KeyId.ofBits b).bits = b := by decide

/-- Settles O34: the control byte is an append of two fields; the tables of R60 and R61 are finite. -/
theorem effectiveControlByte : Obligations.EffectiveControlByte := by
  refine ⟨fun s => ⟨?_, ?_, ?_, level_eq_decodeLevel s⟩, by decide, rfl, rfl, rfl, rfl, KeyId.bits_ofBits⟩
  · rw [effCtrl_eq_append, BitVec.extractLsb'_append_eq_right]
  · rw [effCtrl_eq_append, BitVec.extractLsb'_append_eq_left]
  · rw [frameKeyId_eq_secCtrl, ctrlKeyId, KeyId.bits_ofBits]

/-! ### The thirteen bytes of the nonce -/

theorem nonceOfBytes_getD (l : Bytes) {i : Nat} (hi : i < 13) : (nonceOfBytes l).toList.getD i 0 = l.getD i 0 := by
  simp [nonceOfBytes, hi]

/-- Byte i of a word least significant first is its bits 8i+7:8i (spec R43). -/
theorem le_toNat_getD {w : Nat} (x : BitVec w) {n i : Nat} (hi : i < n) :
    (le n x.toNat).getD i 0 = x.extractLsb' (8 * i) 8 := by
  simp [le, hi, BitVec.extractLsb']

/-- The nonce byte by byte: the address, the frame counter, the control byte (spec R79). -/
theorem buildNonce_getD (src : BitVec 64) (fc : Word) (ctl : Byte) :
    (∀ i < 8, (buildNonce src fc ctl).toList.getD i 0 = src.extractLsb' (8 * i) 8)
      ∧ (∀ i < 4, (buildNonce src fc ctl).toList.getD (8 + i) 0 = fc.extractLsb' (8 * i) 8)
      ∧ (buildNonce src fc ctl).toList.getD 12 0 = ctl := by
  unfold buildNonce
  refine ⟨fun i hi => ?_, fun i hi => ?_, ?_⟩
  · rw [nonceOfBytes_getD _ (by omega), List.getD_append _ _ _ _ (by simp; omega),
      List.getD_append _ _ _ _ (by simpa using hi), le_toNat_getD src hi]
  · rw [nonceOfBytes_getD _ (by omega), List.getD_append _ _ _ _ (by simp; omega),
      List.getD_append_right _ _ _ _ (by simp), le_length, Nat.add_sub_cancel_left, le_toNat_getD fc hi]
  · rw [nonceOfBytes_getD _ (by decide), List.getD_append_right _ _ _ _ (by simp)]
    simp

/-- Settles O35: the branch of SRC_VALID, and the bytes of the nonce that is written. -/
theorem nonceBuildEffect : Obligations.NonceBuildEffect := by
  refine ⟨decodeWord_encodeWord .nonceBuild, fun s => ⟨fun h => ?_, fun h => ⟨s.frameNonce, ?_, ?_⟩⟩⟩
  · show execNonceBuild s = _
    rw [execNonceBuild, h]
    rfl
  · show execNonceBuild s = _
    rw [execNonceBuild, if_pos h]
    rfl
  · exact buildNonce_getD s.src s.frameCnt s.effCtrl

end Sys2Proof.Machine

/-! PROOFS. What a command does not read: an edit of such registers goes past the command unchanged (spec R19, R77, R81,
R128, R129). -/

namespace Sys2Proof.Machine

/-- An outcome with an edit of the state it goes on to. -/
def mapNext (f : State → State) : Result → Result
  | .next t => .next (f t)
  | .fault r => .fault r
  | .refused r => .refused r

/-! ### DECRYPT_FRAME -/

/-- `s'` holds what DECRYPT_FRAME reads in `s`: of SEC_CTRL and CONFIG the effective control byte, of HDR_FLAGS
SRC_VALID, the other frame descriptors, DBUF with its draws, and the two tables (spec R128, R129). -/
structure SameFrame (s s' : State) : Prop where
  effCtrl : s'.effCtrl = s.effCtrl
  srcValid : s'.hdrFlags.srcValid = s.hdrFlags.srcValid
  src : s'.src = s.src
  frameCnt : s'.frameCnt = s.frameCnt
  frameOfs : s'.frameOfs = s.frameOfs
  aadLen : s'.aadLen = s.aadLen
  payloadLen : s'.payloadLen = s.payloadLen
  ctrlOfs : s'.ctrlOfs = s.ctrlOfs
  dbuf : s'.dbuf = s.dbuf
  epoch : s'.epoch = s.epoch
  ring : s'.ring = s.ring
  cache : s'.cache = s.cache

namespace SameFrame

variable {s s' : State}

theorem level (h : SameFrame s s') : s'.level = s.level := by rw [State.level, h.effCtrl, State.level]

theorem frameKeyId (h : SameFrame s s') : s'.frameKeyId = s.frameKeyId := by
  rw [State.frameKeyId, h.effCtrl, State.frameKeyId]

theorem frameNonce (h : SameFrame s s') : s'.frameNonce = s.frameNonce := by
  rw [State.frameNonce, h.src, h.frameCnt, h.effCtrl, State.frameNonce]

theorem frameTextLen (h : SameFrame s s') : s'.frameTextLen = s.frameTextLen := by
  rw [State.frameTextLen, h.payloadLen, h.level, State.frameTextLen]

theorem frameChecks (h : SameFrame s s') : frameChecks s' = frameChecks s := by
  simp only [Machine.frameChecks, State.tagLengths, State.frameEnd, h.level, h.frameTextLen, h.frameOfs, h.aadLen,
    h.payloadLen]
  rfl

theorem dbufRead (h : SameFrame s s') (ofs n : Nat) : s'.dbufRead ofs n = s.dbufRead ofs n := by
  simp only [State.dbufRead, State.dbufByte, h.dbuf, h.epoch]

theorem payload (h : SameFrame s s') : s'.payload = s.payload := by
  rw [State.payload, h.dbufRead, h.frameOfs, h.aadLen, h.payloadLen, State.payload]

theorem frameText (h : SameFrame s s') : s'.frameText = s.frameText := by
  rw [State.frameText, h.payload, h.frameTextLen, State.frameText]

theorem frameTag (h : SameFrame s s') : s'.frameTag = s.frameTag := by
  rw [State.frameTag, h.payload, h.frameTextLen, State.frameTag]

theorem patchedAad (h : SameFrame s s') : s'.patchedAad = s.patchedAad := by
  simp only [State.patchedAad, State.aad, h.dbufRead, h.frameOfs, h.aadLen, h.ctrlOfs, h.effCtrl]

theorem slotKey (h : SameFrame s s') (slot : Nat) : s'.slotKey slot = s.slotKey slot := by
  rw [State.slotKey, h.ring, h.epoch, State.slotKey]

theorem attempt (h : SameFrame s s') : s'.attempt = s.attempt := by
  funext slot
  simp only [State.attempt, h.level, h.frameKeyId, h.slotKey, h.frameNonce, h.patchedAad, h.frameText, h.frameTag]

/-- The trial of the candidates ends alike (spec R124). -/
theorem tryFrame (h : SameFrame s s') : s'.tryFrame = s.tryFrame := by
  simp only [State.tryFrame, State.candidatesFor, State.cached, h.attempt, h.src, h.frameKeyId, h.cache, h.ring]

end SameFrame

/-- RESULT_INFO replaced (spec R29). -/
def State.withInfo (s : State) (info : ResultInfo) : State := { s with resultInfo := info }

/-- The flow cache replaced (spec R33). -/
def State.withCache (s : State) (cache : List FlowEntry) : State := { s with cache := cache }

/-- STATUS.FCFULL set (spec R110). -/
def State.flagFull (s : State) : State := { s with fcfull := true }

theorem rememberSuccess_eq (s : State) (src : BitVec 64) (kid : KeyId) (slot : Byte) :
    s.rememberSuccess src kid slot =
      if (s.cached src kid).isSome then s.withCache (overwriteFlow src kid slot s.cache)
      else if s.fcCount < Config.fcSlots then s.withCache (s.cache ++ [⟨src, kid, slot⟩]) else s.flagFull := rfl

theorem frameDecrypted_eq (s : State) (c : Candidate) (tried : Nat) (out : Bytes) :
    s.frameDecrypted c tried out =
      (((s.deliver out).withInfo ⟨BitVec.ofNat 8 c.slot, true, c.fromCache, BitVec.ofNat 16 tried⟩).rememberSuccess
        s.src s.frameKeyId (BitVec.ofNat 8 c.slot)).finish .ok 0 := rfl

theorem frameExhausted_eq (s : State) (tried : Nat) :
    s.frameExhausted tried =
      if s.level.encrypts then (s.withhold.withInfo ⟨0, false, false, BitVec.ofNat 16 tried⟩).finish .exhausted 0
      else ((s.deliver s.frameText).withInfo ⟨0, false, false, BitVec.ofNat 16 tried⟩).finish .unverified 0 := rfl

theorem exec_decryptFrame_eq (s : State) : exec .decryptFrame s = .next (s.withInfo ResultInfo.zero).decryptFrame := rfl

/-- An edit of registers that leaves alone what DECRYPT_FRAME writes: it goes past each of the command's updates, and
shows it the same cache (spec R129). -/
structure SparesFrameResults (f : State → State) : Prop where
  finish : ∀ s code detail, f (s.finish code detail) = (f s).finish code detail
  deliver : ∀ s out, f (s.deliver out) = (f s).deliver out
  withhold : ∀ s, f s.withhold = (f s).withhold
  withInfo : ∀ s info, f (s.withInfo info) = (f s).withInfo info
  withCache : ∀ s cache, f (s.withCache cache) = (f s).withCache cache
  flagFull : ∀ s, f s.flagFull = (f s).flagFull
  cache : ∀ s, (f s).cache = s.cache

namespace SparesFrameResults

variable {f : State → State} {s : State}

theorem rememberSuccess (hf : SparesFrameResults f) (s : State) (src : BitVec 64) (kid : KeyId) (slot : Byte) :
    f (s.rememberSuccess src kid slot) = (f s).rememberSuccess src kid slot := by
  have hcached : (f s).cached src kid = s.cached src kid := by rw [State.cached, hf.cache, State.cached]
  have hcount : (f s).fcCount = s.fcCount := by rw [State.fcCount, hf.cache, State.fcCount]
  rw [rememberSuccess_eq, rememberSuccess_eq, hcached, hcount, hf.cache, apply_ite f, apply_ite f, hf.withCache,
    hf.withCache, hf.flagFull]

theorem frameDecrypted (hf : SparesFrameResults f) (h : SameFrame s (f s)) (c : Candidate) (tried : Nat) (out : Bytes) :
    (f s).frameDecrypted c tried out = f (s.frameDecrypted c tried out) := by
  simp only [frameDecrypted_eq, h.src, h.frameKeyId, hf.finish, hf.rememberSuccess, hf.withInfo, hf.deliver]

theorem frameExhausted (hf : SparesFrameResults f) (h : SameFrame s (f s)) (tried : Nat) :
    (f s).frameExhausted tried = f (s.frameExhausted tried) := by
  simp only [frameExhausted_eq, h.level, h.frameText, apply_ite f, hf.finish, hf.withInfo, hf.deliver, hf.withhold]

theorem frameNoSource (hf : SparesFrameResults f) (h : SameFrame s (f s)) :
    (f s).frameNoSource = f s.frameNoSource := by
  simp only [State.frameNoSource, h.level, h.frameText, apply_ite f, hf.finish, hf.deliver, hf.withhold]

/-- An edit of registers that DECRYPT_FRAME neither reads nor writes goes past it. -/
theorem decryptFrame (hf : SparesFrameResults f) (h : SameFrame s (f s)) : (f s).decryptFrame = f s.decryptFrame := by
  simp only [State.decryptFrame, h.frameChecks, h.level, h.srcValid, h.frameText, h.tryFrame]
  cases firstFailure (frameChecks s) with
  | some c => exact (hf.finish ..).symm
  | none =>
    dsimp only
    split_ifs
    · rw [hf.finish, hf.deliver]
    · cases s.tryFrame with
      | decrypted c tried out => exact hf.frameDecrypted h c tried out
      | exhausted tried => exact hf.frameExhausted h tried
    · exact hf.frameNoSource h

end SparesFrameResults

/-- What DECRYPT_FRAME reads does not depend on RESULT_INFO, which it clears first (spec R127). -/
theorem SameFrame.withInfo {s s' : State} (h : SameFrame s s') (info : ResultInfo) :
    SameFrame (s.withInfo info) (s'.withInfo info) :=
  ⟨h.effCtrl, h.srcValid, h.src, h.frameCnt, h.frameOfs, h.aadLen, h.payloadLen, h.ctrlOfs, h.dbuf, h.epoch, h.ring,
    h.cache⟩

/-- The edit goes past the whole command. -/
theorem exec_decryptFrame_edit {f : State → State} (hf : SparesFrameResults f) {s : State} (h : SameFrame s (f s)) :
    exec .decryptFrame (f s) = mapNext f (exec .decryptFrame s) := by
  have hinfo := h.withInfo ResultInfo.zero
  rw [← hf.withInfo] at hinfo
  rw [exec_decryptFrame_eq, exec_decryptFrame_eq, ← hf.withInfo, hf.decryptFrame hinfo, mapNext]

/-- The registers of the single-key commands and of KR_READ and KR_LOAD that DECRYPT_FRAME has no use for (spec R81). -/
structure SingleKeyRegs where
  key : Block
  blkIn : Block
  blkOut : Block
  digest : Block
  rdKey : Block
  nonce : Nonce
  micLen : Byte
  hashOfs : Word
  hashLen : Word
  krArg : KrArg

/-- These registers replaced. -/
def State.withSingleKeyRegs (r : SingleKeyRegs) (s : State) : State :=
  { s with
    key := r.key, blkIn := r.blkIn, blkOut := r.blkOut, digest := r.digest, rdKey := r.rdKey, nonce := r.nonce
    micLen := r.micLen, hashOfs := r.hashOfs, hashLen := r.hashLen, krArg := r.krArg }

theorem sparesFrameResults_withSingleKeyRegs (r : SingleKeyRegs) : SparesFrameResults (State.withSingleKeyRegs r) :=
  ⟨fun _ _ _ => rfl, fun _ _ => rfl, fun _ => rfl, fun _ _ => rfl, fun _ _ => rfl, fun _ => rfl, fun _ => rfl⟩

theorem sameFrame_withSingleKeyRegs (r : SingleKeyRegs) (s : State) : SameFrame s (s.withSingleKeyRegs r) :=
  ⟨rfl, rfl, rfl, rfl, rfl, rfl, rfl, rfl, rfl, rfl, rfl, rfl⟩

/-- Settles O57: the replaced registers are none of those DECRYPT_FRAME reads or writes. -/
theorem decryptFrameIgnoresSingleKeyRegisters : Obligations.DecryptFrameIgnoresSingleKeyRegisters := by
  intro s t k bi bo dg rk n ml ho hl ka h
  let r : SingleKeyRegs := ⟨k, bi, bo, dg, rk, n, ml, ho, hl, ka⟩
  calc exec .decryptFrame (s.withSingleKeyRegs r)
      = mapNext (State.withSingleKeyRegs r) (exec .decryptFrame s) :=
        exec_decryptFrame_edit (sparesFrameResults_withSingleKeyRegs r) (sameFrame_withSingleKeyRegs r s)
    _ = .next (t.withSingleKeyRegs r) := by rw [h, mapNext]

/-! ### The level bits of SEC_CTRL, KSN_VALID and KEY_SEQ -/

/-- SEC_CTRL and HDR_FLAGS replaced. -/
def State.withHeader (c : Byte) (flags : HdrFlags) (s : State) : State := { s with secCtrl := c, hdrFlags := flags }

/-- The replaced SEC_CTRL and HDR_FLAGS have the bits that are read: bits 7:3 and SRC_VALID (spec R19, R77). -/
structure SameReadHeader (s : State) (c : Byte) (flags : HdrFlags) : Prop where
  secCtrl : c.extractLsb' 3 5 = s.secCtrl.extractLsb' 3 5
  srcValid : flags.srcValid = s.hdrFlags.srcValid

theorem sparesFrameResults_withHeader (c : Byte) (flags : HdrFlags) : SparesFrameResults (State.withHeader c flags) :=
  ⟨fun _ _ _ => rfl, fun _ _ => rfl, fun _ => rfl, fun _ _ => rfl, fun _ _ => rfl, fun _ => rfl, fun _ => rfl⟩

section

variable {s : State} {c : Byte} {flags : HdrFlags}

theorem effCtrl_withHeader (h : SameReadHeader s c flags) : (s.withHeader c flags).effCtrl = s.effCtrl := by
  rw [effCtrl_eq_append, effCtrl_eq_append, ← h.secCtrl]
  rfl

theorem sameFrame_withHeader (h : SameReadHeader s c flags) : SameFrame s (s.withHeader c flags) :=
  ⟨effCtrl_withHeader h, h.srcValid, rfl, rfl, rfl, rfl, rfl, rfl, rfl, rfl, rfl, rfl⟩

theorem execNonceBuild_withHeader (h : SameReadHeader s c flags) :
    execNonceBuild (s.withHeader c flags) = mapNext (State.withHeader c flags) (execNonceBuild s) := by
  have hframe := sameFrame_withHeader h
  rw [execNonceBuild, execNonceBuild, hframe.srcValid, hframe.frameNonce, apply_ite (mapNext _)]
  rfl

theorem execHash_withHeader :
    execHash (s.withHeader c flags) = mapNext (State.withHeader c flags) (execHash s) := by
  have hchecks : hashChecks (s.withHeader c flags) = hashChecks s := rfl
  rw [execHash, execHash, hchecks]
  cases firstFailure (hashChecks s) <;> rfl

@[simp] theorem key_withHeader : (s.withHeader c flags).key = s.key := rfl
@[simp] theorem nonce_withHeader : (s.withHeader c flags).nonce = s.nonce := rfl
@[simp] theorem aad_withHeader : (s.withHeader c flags).aad = s.aad := rfl
@[simp] theorem payload_withHeader : (s.withHeader c flags).payload = s.payload := rfl
@[simp] theorem ccmTextLen_withHeader (decrypting : Bool) :
    (s.withHeader c flags).ccmTextLen decrypting = s.ccmTextLen decrypting := rfl

theorem ccmChecks_withHeader (decrypting : Bool) :
    ccmChecks decrypting (s.withHeader c flags) = ccmChecks decrypting s := rfl

theorem execCcmDec_withHeader :
    execCcmDec (s.withHeader c flags) = mapNext (State.withHeader c flags) (execCcmDec s) := by
  rw [execCcmDec, execCcmDec, ccmChecks_withHeader]
  cases firstFailure (ccmChecks true s) with
  | some c => rfl
  | none =>
    simp only [key_withHeader, nonce_withHeader, aad_withHeader, payload_withHeader, ccmTextLen_withHeader]
    generalize ccmDecrypt _ _ _ _ _ = out
    cases out <;> rfl

theorem execCcmEnc_withHeader :
    execCcmEnc (s.withHeader c flags) = mapNext (State.withHeader c flags) (execCcmEnc s) := by
  rw [execCcmEnc, execCcmEnc, ccmChecks_withHeader]
  cases firstFailure (ccmChecks false s) <;> rfl

theorem execKrLoad_withHeader :
    execKrLoad (s.withHeader c flags) = mapNext (State.withHeader c flags) (execKrLoad s) := by
  rw [execKrLoad, execKrLoad, apply_ite (mapNext _)]
  rfl

theorem execKrRead_withHeader :
    execKrRead (s.withHeader c flags) = mapNext (State.withHeader c flags) (execKrRead s) := by
  have hslot : (s.withHeader c flags).ring[(s.withHeader c flags).krArg.slot.toNat]? = s.ring[s.krArg.slot.toNat]? :=
    rfl
  rw [execKrRead, execKrRead, hslot]
  cases s.ring[s.krArg.slot.toNat]? <;> rfl

theorem execFcRemember_withHeader (h : SameReadHeader s c flags) :
    execFcRemember (s.withHeader c flags) = mapNext (State.withHeader c flags) (execFcRemember s) := by
  have hchecks : fcChecks (s.withHeader c flags) = fcChecks s := by
    rw [fcChecks, fcChecks, (sameFrame_withHeader h).srcValid]
    rfl
  have hkid : ctrlKeyId (s.withHeader c flags).secCtrl = ctrlKeyId s.secCtrl := by
    rw [ctrlKeyId_eq, ctrlKeyId_eq, ← h.secCtrl]
    rfl
  rw [execFcRemember, execFcRemember, hchecks, hkid]
  cases firstFailure (fcChecks s) with
  | some c => rfl
  | none =>
    have hf := sparesFrameResults_withHeader c flags
    dsimp only [mapNext]
    rw [hf.finish, hf.rememberSuccess]
    rfl

/-- No command reads the replaced bits. -/
theorem exec_withHeader (i : Instr) (h : SameReadHeader s c flags) :
    exec i (s.withHeader c flags) = mapNext (State.withHeader c flags) (exec i s) := by
  cases i with
  | nop | ecbEnc | derive _ | krClear => rfl
  | nonceBuild => exact execNonceBuild_withHeader h
  | hash => exact execHash_withHeader
  | ccmDec => exact execCcmDec_withHeader
  | ccmEnc => exact execCcmEnc_withHeader
  | krLoad => exact execKrLoad_withHeader
  | krRead => exact execKrRead_withHeader
  | fcRemember => exact execFcRemember_withHeader h
  | decryptFrame => exact exec_decryptFrame_edit (sparesFrameResults_withHeader c flags) (sameFrame_withHeader h)

end

/-- Settles O58: the new level bits, KSN_VALID and KEY_SEQ leave bits 7:3 of SEC_CTRL and SRC_VALID as they were. -/
theorem receivedLevelAndKeySequenceAreNotRead : Obligations.ReceivedLevelAndKeySequenceAreNotRead := by
  intro i s t c ks kv hc ht
  let flags : HdrFlags := { s.hdrFlags with ksnValid := kv, keySeq := ks }
  calc exec i (s.withHeader c flags)
      = mapNext (State.withHeader c flags) (exec i s) := exec_withHeader i ⟨hc, rfl⟩
    _ = .next (t.withHeader c flags) := by rw [ht, mapNext]

end Sys2Proof.Machine

/-! PROOFS. The hash of a byte string, the key derived through it, and the commands HASH and DERIVE (spec R82 to R88). -/

namespace Sys2Proof.Machine

/-! ### The padding (spec R82) -/

/-- The number of zero bytes fills the last block, and no smaller number does. -/
theorem padZeros_least (n : Nat) :
    (n + 1 + padZeros n + 2) % 16 = 0 ∧ ∀ z < padZeros n, (n + 1 + z + 2) % 16 ≠ 0 := by
  unfold padZeros
  exact ⟨by omega, fun z hz => by omega⟩

/-- Two bytes, the most significant first (log 12). -/
theorem be_two (v : Nat) : be 2 v = [BitVec.ofNat 8 (v / 256), BitVec.ofNat 8 v] := by
  have hhigh : v >>> 8 = v / 256 := Nat.shiftRight_eq_div_pow v 8
  rw [← hhigh]
  rfl

@[simp] theorem mmoPad_length (x : Bytes) : (mmoPad x).length = 16 * ceil16 (x.length + 3) := by
  simp only [mmoPad, List.length_append, List.length_singleton, List.length_replicate, be_length, padZeros, ceil16]
  omega

/-! ### The chain of AES calls (spec R84) -/

theorem blocks16_getElem (s : Bytes) {i : Nat} (h : i < (blocks16 s).length) :
    (blocks16 s)[i] = blockOf ((s.drop (16 * i)).take 16) :=
  takeBlocks_getElem _ s i h

/-- The chaining value before chunk `i` of the padded input. -/
def hashChain (x : Bytes) (i : Nat) : Block := ((blocks16 (mmoPad x)).take i).foldl mmoStep zeroBlock

/-- One step of the chain: the chaining value is the key, the next chunk the block. -/
theorem hashChain_succ (x : Bytes) {i : Nat} (h : i < (mmoPad x).length / 16) :
    hashChain x (i + 1) = mmoStep (hashChain x i) (blockOf (((mmoPad x).drop (16 * i)).take 16)) := by
  have hi : i < (blocks16 (mmoPad x)).length := by rwa [blocks16_length]
  rw [hashChain, foldl_take_succ _ _ _ hi, blocks16_getElem]
  rfl

theorem mmoHash_eq_hashChain (x : Bytes) : mmoHash x = hashChain x ((mmoPad x).length / 16) := by
  rw [hashChain, ← blocks16_length, List.take_length, mmoHash]

/-- Settles O36: the padding's least zeros and its length, and the chain through the chunks of the padded input. -/
theorem hashPadding : Obligations.HashPadding := by
  intro x _
  obtain ⟨hfill, hleast⟩ := padZeros_least x.length
  obtain ⟨hge, hlt⟩ := ceil16_bound (x.length + 3)
  rw [← mmoPad_length] at hge hlt
  refine ⟨⟨padZeros x.length, hfill, hleast, by rw [mmoPad, be_two]⟩, ?_, hge, hlt,
    hashChain x, rfl, fun i hi => ?_, mmoHash_eq_hashChain x⟩
  · rw [mmoPad_length, Nat.mul_mod_right]
  · refine ⟨blockOf (((mmoPad x).drop (16 * i)).take 16), fun j hj => blockOf_chunk_getD _ i hj, fun j hj => ?_⟩
    rw [hashChain_succ x hi, mmoStep, xorBlock_getD _ _ hj]

/-! ### HASH (spec R85) -/

/-- The first check of HASH that fails, by the inequalities of spec R85. -/
theorem firstFailure_hashChecks (s : State) : firstFailure (hashChecks s) =
    if 0xFFFF < 8 * s.hashLen.toNat then some ⟨decide (0xFFFF < 8 * s.hashLen.toNat), .structErr, 4⟩
    else if Config.dbufSize < s.hashOfs.toNat + s.hashLen.toNat then
      some ⟨decide (Config.dbufSize < s.hashOfs.toNat + s.hashLen.toNat), .bounds, 1⟩
    else none := by
  simp only [hashChecks, firstFailure_cons, firstFailure_nil, decide_eq_true_eq]

/-- Settles O37: the two checks in order, and the digest when both pass. -/
theorem hashEffect : Obligations.HashEffect := by
  refine ⟨decodeWord_encodeWord .hash, fun s => ?_⟩
  show execHash s = _
  rw [execHash, firstFailure_hashChecks]
  by_cases hlen : 0xFFFF < 8 * s.hashLen.toNat
  · rw [if_pos hlen, if_pos hlen]
    rfl
  · rw [if_neg hlen, if_neg hlen]
    by_cases hend : Config.dbufSize < s.hashOfs.toNat + s.hashLen.toNat
    · rw [if_pos hend, if_pos hend]
      rfl
    · rw [if_neg hend, if_neg hend]
      rfl

/-! ### DERIVE (spec R86, R88) -/

theorem xorPad_toList (k : Block) (pad : Byte) : (xorPad k pad).toList = k.toList.map (· ^^^ pad) := by
  refine List.ext_getElem (by simp) fun i _ _ => ?_
  simp [xorPad]

/-- The derived key with the pad bytes of spec R65 written out (spec R86). -/
theorem deriveKey_eq (k : Block) (sel : Byte) :
    deriveKey k sel = mmoHash ((k.toList.map (· ^^^ 0x5C#8))
      ++ (mmoHash ((k.toList.map (· ^^^ 0x36#8)) ++ [sel])).toList) := by
  rw [deriveKey, xorPad_toList, xorPad_toList]
  rfl

/-- A command word by shifts: ARG above the opcode (spec R54). -/
theorem commandWord_eq_shiftLeft_or (opc : Nat) (arg : Byte) :
    commandWord opc arg = arg.setWidth 32 <<< 8 ||| (BitVec.ofNat 8 opc).setWidth 32 := by
  calc commandWord opc arg
      = ((0 : BitVec 16) ++ arg ++ BitVec.ofNat 8 opc).setWidth 32 := (BitVec.setWidth_eq _).symm
    _ = 0#32 ||| arg.setWidth 32 <<< 8 ||| (BitVec.ofNat 8 opc).setWidth 32 :=
      BitVec.setWidth_append_append_eq_shiftLeft_setWidth_or
    _ = arg.setWidth 32 <<< 8 ||| (BitVec.ofNat 8 opc).setWidth 32 := by rw [BitVec.zero_or]

/-- Settles O38: the selector's word is DERIVE's encoding, and DERIVE is a write of DIGEST and the completion with OK. -/
theorem deriveEffect : Obligations.DeriveEffect := by
  refine ⟨fun sel => decodeWord_eq_ok_iff.mpr (commandWord_eq_shiftLeft_or 0x04 sel), fun sel s => ?_⟩
  rw [← deriveKey_eq]
  rfl

end Sys2Proof.Machine

/-! PROOFS. CCM* by its bytes: the counter-mode keystream, B0, the authentication input and the CBC-MAC chain, decryption
against encryption and against another tag, and the commands CCM_DEC and CCM_ENC (spec R89 to R105). -/

namespace Sys2Proof.Machine

/-! ### Blocks of exactly sixteen bytes, and two big-endian bytes -/

/-- A string of sixteen bytes is the block made of it. -/
theorem blockOf_toList {s : Bytes} (h : s.length = 16) : (blockOf s).toList = s := by
  refine List.ext_getElem (by simp [h]) fun i _ hi => ?_
  simp [blockOf, hi]

/-- Two big-endian bytes as quotient and remainder (spec R89, R94). -/
theorem be_two_divMod (v : Nat) : be 2 v = [BitVec.ofNat 8 (v / 256), BitVec.ofNat 8 (v % 256)] := by
  have hlow : BitVec.ofNat 8 v = BitVec.ofNat 8 (v % 256) := BitVec.eq_of_toNat_eq (by simp)
  rw [be_two, hlow]

/-- A block of one flags byte, the nonce and two big-endian bytes: the counter blocks and B0 (spec R89, R94). -/
theorem nonceBlock_toList (flags : Byte) (N : Nonce) (v : Nat) :
    (blockOf ([flags] ++ N.toList ++ be 2 v)).toList
      = [flags] ++ N.toList ++ [BitVec.ofNat 8 (v / 256), BitVec.ofNat 8 (v % 256)] := by
  rw [blockOf_toList (by simp), be_two_divMod]

/-! ### Counter mode (spec R89, R92) -/

theorem xorBytes_getD {a k : Bytes} {j : Nat} (hj : j < a.length) (h : a.length ≤ k.length) :
    (xorBytes a k).getD j 0 = a.getD j 0 ^^^ k.getD j 0 := by
  have hk : j < k.length := by omega
  simp [xorBytes, hj, hk]

/-- Blocks written one after another: byte j is byte j mod 16 of block j / 16. -/
theorem getD_flatMap_blocks (f : Nat → Block) (n : Nat) {j : Nat} (hj : j < 16 * n) :
    ((List.range n).flatMap fun i => (f i).toList).getD j 0 = (f (j / 16)).toList.getD (j % 16) 0 := by
  induction n with
  | zero => exact absurd hj (Nat.not_lt_zero j)
  | succ n ih =>
    have hlen : ((List.range n).flatMap fun i => (f i).toList).length = 16 * n := by
      simp [List.length_flatMap, Nat.mul_comm]
    rw [List.range_succ, List.flatMap_append, List.flatMap_singleton]
    by_cases hlt : j < 16 * n
    · rw [List.getD_append _ _ _ _ (hlen ▸ hlt), ih hlt]
    · have hblock : j / 16 = n := by omega
      have hbyte : j - 16 * n = j % 16 := by omega
      rw [List.getD_append_right _ _ _ _ (by omega), hlen, hblock, hbyte]

/-- Byte j of the keystream is byte j mod 16 of S_(j/16 + 1) (spec R92). -/
theorem keystream_getD (K : Block) (N : Nonce) {l j : Nat} (hj : j < l) :
    (keystream K N l).getD j 0 = (keystreamBlock K N (j / 16 + 1)).toList.getD (j % 16) 0 := by
  have hfull := (ceil16_bound l).1
  rw [keystream, ← getD_flatMap_blocks (fun i => keystreamBlock K N (i + 1)) (ceil16 l) (by omega)]
  simp [List.getD_eq_getElem?_getD, hj]

theorem ctr_getD (K : Block) (N : Nonce) {x : Bytes} {j : Nat} (hj : j < x.length) :
    (ctr K N x).getD j 0 = x.getD j 0 ^^^ (keystreamBlock K N (j / 16 + 1)).toList.getD (j % 16) 0 := by
  rw [ctr, xorBytes_getD hj (keystream_length ..).ge, keystream_getD K N hj]

/-- Counter mode is its own inverse (spec R92). -/
@[simp] theorem ctr_ctr (K : Block) (N : Nonce) (x : Bytes) : ctr K N (ctr K N x) = x := by
  rw [ctr, ctr_length, ctr, xorBytes_cancel _ _ (keystream_length ..).ge]

/-- Settles O41: a byte of the transform is its own byte of the keystream, which the same transform takes off again. -/
theorem counterModeByBytes : Obligations.CounterModeByBytes := fun K N x =>
  ⟨ctr_length K N x, fun _ hj => ctr_getD K N hj, fun i _ => nonceBlock_toList 0x01 N i, ctr_ctr K N x⟩

/-! ### B0, the authentication input and the CBC-MAC chain (spec R94 to R96) -/

/-- The flags byte of B0 at each nonzero tag length (spec R94, R63b). -/
theorem b0Flags_eq (la : Nat) {M : Nat} (hM : M = 4 ∨ M = 8 ∨ M = 16) :
    b0Flags la M
      = (if 0 < la then 0x40#8 else 0x00#8) ||| (if M = 4 then 0x09#8 else if M = 8 then 0x19#8 else 0x39#8) := by
  unfold b0Flags
  obtain rfl | rfl | rfl := hM <;> split <;> rfl

/-- The zero bytes of pad16 are fewer than a block and fill the last one. -/
theorem pad16_fill (n : Nat) : 16 * ceil16 n - n < 16 ∧ (n + (16 * ceil16 n - n)) % 16 = 0 := by
  obtain ⟨hle, hlt⟩ := ceil16_bound n
  omega

theorem authInput_nil (m : Bytes) : authInput [] m = pad16 m := rfl

theorem authInput_of_ne_nil {a : Bytes} (h : a ≠ []) (m : Bytes) :
    authInput a m = pad16 (be 2 a.length ++ a) ++ pad16 m := by
  rw [authInput, if_pos (List.length_pos_iff.mpr h)]

/-- The chaining value after `i` chunks of the authentication input (spec R96). -/
def macChain (K : Block) (N : Nonce) (a m : Bytes) (M i : Nat) : Block :=
  ((blocks16 (authInput a m)).take i).foldl (fun X B => aes K (xorBlock X B)) (aes K (b0 N a.length m.length M))

/-- One step of the chain absorbs the next chunk. -/
theorem macChain_succ (K : Block) (N : Nonce) (a m : Bytes) (M : Nat) {i : Nat} (h : i < (authInput a m).length / 16) :
    macChain K N a m M (i + 1)
      = aes K (xorBlock (macChain K N a m M i) (blockOf (((authInput a m).drop (16 * i)).take 16))) := by
  have hi : i < (blocks16 (authInput a m)).length := by rwa [blocks16_length]
  rw [macChain, foldl_take_succ _ _ _ hi, blocks16_getElem]
  rfl

theorem cbcMac_eq_macChain (K : Block) (N : Nonce) (a m : Bytes) (M : Nat) :
    cbcMac K N a m M = (macChain K N a m M ((authInput a m).length / 16)).toList.take M := by
  rw [macChain, ← blocks16_length, List.take_length, cbcMac]

/-- Settles O42: the bytes of B0, each part's own padding, and the chain through the chunks of the authentication input. -/
theorem authenticationInput : Obligations.AuthenticationInput := by
  refine ⟨fun N la lm M hM _ => ?_, fun a m _ => ?_, fun K N a m M _ _ _ =>
    ⟨macChain K N a m M, rfl, fun i hi => ?_, cbcMac_eq_macChain K N a m M⟩⟩
  · rw [← b0Flags_eq la hM]
    exact nonceBlock_toList _ N lm
  · obtain ⟨hza, hfillA⟩ := pad16_fill (2 + a.length)
    obtain ⟨hzm, hfillM⟩ := pad16_fill m.length
    refine ⟨_, _, hza, hzm, hfillM, hfillA, fun hnil => ?_, fun hne => ?_⟩
    · rw [hnil, authInput_nil, pad16]
    · rw [authInput_of_ne_nil hne, pad16, pad16, ← be_two_divMod, List.length_append, be_length]
  · exact ⟨_, macChain_succ K N a m M hi, fun j hj => by rw [xorBlock_getD _ _ hj, blockOf_chunk_getD _ i hj]⟩

/-! ### Decryption undoes encryption (spec R101) -/

/-- Masking a tag twice gives it back (spec R93). -/
theorem maskTag_maskTag (K : Block) (N : Nonce) {t : Bytes} (h : t.length ≤ 16) : maskTag K N (maskTag K N t) = t :=
  xorBytes_cancel _ _ (by simpa using h)

/-- The output of ccm_encrypt is the ciphertext followed by the masked tag, which is empty at M = 0 (spec R100). -/
theorem ccmEncrypt_eq_append (K : Block) (N : Nonce) (a m : Bytes) (M : Nat) :
    ccmEncrypt K N a m M = ctr K N m ++ maskTag K N (cbcMac K N a m M) := by
  unfold ccmEncrypt
  split
  · rename_i hM
    rw [hM, cbcMac, List.take_zero]
    exact (List.append_nil _).symm
  · rfl

/-- When ccm_decrypt succeeds, and with what (spec R97 to R99). -/
theorem ccmDecrypt_eq_some_iff {K : Block} {N : Nonce} {a c U m : Bytes} :
    ccmDecrypt K N a c U = some m
      ↔ m = ctr K N c ∧ (U = [] ∨ cbcMac K N a (ctr K N c) U.length = maskTag K N U) := by
  have hverified : (ccmDecrypt K N a c U).isSome = true
      ↔ U = [] ∨ cbcMac K N a (ctr K N c) U.length = maskTag K N U := by
    rw [ccmDecrypt_isSome, decide_eq_true_iff, List.length_eq_zero_iff]
  constructor
  · intro h
    exact ⟨ccmDecrypt_some h, hverified.mp (Option.isSome_of_eq_some h)⟩
  · rintro ⟨rfl, h⟩
    obtain ⟨m, hm⟩ := Option.isSome_iff_exists.mp (hverified.mpr h)
    rw [hm, ccmDecrypt_some hm]

/-- The ciphertext decrypts with the masked tag of its plaintext (spec R97, R101). -/
theorem ccmDecrypt_ctr_maskTag (K : Block) (N : Nonce) (a m : Bytes) {M : Nat} (hM : M ≤ 16) :
    ccmDecrypt K N a (ctr K N m) (maskTag K N (cbcMac K N a m M)) = some m := by
  refine ccmDecrypt_eq_some_iff.mpr ⟨(ctr_ctr K N m).symm, .inr ?_⟩
  have hlen : (cbcMac K N a m M).length = M := by rw [cbcMac_length, Nat.min_eq_left hM]
  rw [ctr_ctr, maskTag_length, hlen, Nat.min_eq_left hM, maskTag_maskTag K N (hlen.trans_le hM)]

theorem micLenLegal_iff (M : Nat) : micLenLegal M = true ↔ M = 0 ∨ M = 4 ∨ M = 8 ∨ M = 16 := by
  simp [micLenLegal, or_assoc]

/-- Settles O43: the output splits into the ciphertext and the masked tag, which verify. -/
theorem ccmRoundTrip : Obligations.CcmRoundTrip := by
  intro K N a m M hM
  refine ⟨ccmEncrypt_length K N a m ((micLenLegal_iff M).mpr hM), ?_⟩
  rw [ccmEncrypt_eq_append, List.take_left' (ctr_length K N m), List.drop_left' (ctr_length K N m)]
  exact ccmDecrypt_ctr_maskTag K N a m (by omega)

/-! ### No other tag verifies (spec R97) -/

/-- Settles O44: two tags that verify are both the masked tag of the plaintext, hence equal. -/
theorem onlyTheRightTagVerifies : Obligations.OnlyTheRightTagVerifies := by
  refine fun K N a c U => ⟨fun m => ccmDecrypt_eq_some_iff, fun U' hlen hU hne hok => ?_⟩
  obtain ⟨m, hm⟩ := Option.isSome_iff_exists.mp hok
  obtain ⟨-, rfl | htag⟩ := ccmDecrypt_eq_some_iff.mp hm
  · exact absurd (List.length_eq_zero_iff.mp hlen) hne
  · refine Option.eq_none_iff_forall_ne_some.mpr fun m' hm' => ?_
    obtain ⟨-, rfl | htag'⟩ := ccmDecrypt_eq_some_iff.mp hm'
    · exact hne (List.length_eq_zero_iff.mp hlen.symm).symm
    · have hmasked : maskTag K N U' = maskTag K N U := by rw [← htag', ← htag, hlen]
      apply hne
      rw [← maskTag_maskTag K N (hlen.trans_le hU), hmasked, maskTag_maskTag K N hU]

/-! ### CCM_DEC and CCM_ENC (spec R103 to R105) -/

/-- The completion of a command from `s` at the first of its checks that fails, or else in `t` (spec R141). -/
def State.afterChecks (s : State) (checks : List Check) (t : State) : State :=
  match firstFailure checks with
  | some c => s.finish c.code c.detail
  | none => t

@[simp] theorem afterChecks_nil (s t : State) : s.afterChecks [] t = t := rfl

@[simp] theorem afterChecks_cons (s t : State) (c : Check) (cs : List Check) :
    s.afterChecks (c :: cs) t = if c.fails then s.finish c.code c.detail else s.afterChecks cs t := by
  rw [State.afterChecks, firstFailure_cons]
  cases c.fails <;> rfl

/-- The completion of CCM_DEC with what ccm_decrypt gives (spec R104). -/
def State.ccmDecrypted (s : State) : Option Bytes → State
  | none => s.withhold.finish .authFail 0
  | some m => (s.deliver m).finish .ok 0

theorem execCcmDec_eq_afterChecks (s : State) : execCcmDec s = .next (s.afterChecks (ccmChecks true s)
    (s.ccmDecrypted (ccmDecrypt s.key s.nonce s.aad (s.payload.take (s.ccmTextLen true))
      (s.payload.drop (s.ccmTextLen true))))) := by
  unfold execCcmDec State.afterChecks
  cases firstFailure (ccmChecks true s) with
  | some c => rfl
  | none =>
    generalize ccmDecrypt _ _ _ _ _ = out
    cases out <;> rfl

theorem execCcmEnc_eq_afterChecks (s : State) : execCcmEnc s = .next (s.afterChecks (ccmChecks false s)
    ((s.deliver (ccmEncrypt s.key s.nonce s.aad s.payload s.micLen.toNat)).finish .ok 0)) := by
  unfold execCcmEnc State.afterChecks
  cases firstFailure (ccmChecks false s) <;> rfl

theorem not_micLenLegal_iff (M : Nat) : (!micLenLegal M) = true ↔ ¬ (M = 0 ∨ M = 4 ∨ M = 8 ∨ M = 16) := by
  rw [Bool.not_eq_true', ← Bool.not_eq_true, micLenLegal_iff]

/-- The checks of CCM_DEC by the inequalities of spec R103. -/
theorem afterChecks_ccmDec (s t : State) : s.afterChecks (ccmChecks true s) t =
    if ¬ (s.micLen.toNat = 0 ∨ s.micLen.toNat = 4 ∨ s.micLen.toNat = 8 ∨ s.micLen.toNat = 16) then s.finish .badMicLen 0
    else if s.payloadLen.toNat < s.micLen.toNat then s.finish .structErr 1
    else if 2 ^ 16 < 1 + (s.payloadLen.toNat - s.micLen.toNat + 15) / 16 then s.finish .structErr 2
    else if 0 < s.micLen.toNat ∧ (0xFFFF < s.aadLen.toNat ∨ 0xFFFF < s.payloadLen.toNat - s.micLen.toNat) then
      s.finish .structErr 3
    else if Config.dbufSize < s.frameEnd then s.finish .bounds 1
    else if Config.obufSize < s.payloadLen.toNat - s.micLen.toNat then s.finish .bounds 2
    else t := by
  have htext : s.ccmTextLen true = s.payloadLen.toNat - s.micLen.toNat := rfl
  have hout : s.ccmOutputLen true = s.payloadLen.toNat - s.micLen.toNat := rfl
  simp only [ccmChecks, afterChecks_cons, afterChecks_nil, not_micLenLegal_iff, counterOverflows_iff,
    lengthFieldOverflows_iff, decide_eq_true_eq, Bool.true_and, htext, hout]

/-- The checks of CCM_ENC by the inequalities of spec R103. -/
theorem afterChecks_ccmEnc (s t : State) : s.afterChecks (ccmChecks false s) t =
    if ¬ (s.micLen.toNat = 0 ∨ s.micLen.toNat = 4 ∨ s.micLen.toNat = 8 ∨ s.micLen.toNat = 16) then s.finish .badMicLen 0
    else if 2 ^ 16 < 1 + (s.payloadLen.toNat + 15) / 16 then s.finish .structErr 2
    else if 0 < s.micLen.toNat ∧ (0xFFFF < s.aadLen.toNat ∨ 0xFFFF < s.payloadLen.toNat) then s.finish .structErr 3
    else if Config.dbufSize < s.frameEnd then s.finish .bounds 1
    else if Config.obufSize < s.payloadLen.toNat + s.micLen.toNat then s.finish .bounds 2
    else t := by
  have htext : s.ccmTextLen false = s.payloadLen.toNat := rfl
  have hout : s.ccmOutputLen false = s.payloadLen.toNat + s.micLen.toNat := rfl
  simp only [ccmChecks, afterChecks_cons, afterChecks_nil, not_micLenLegal_iff, counterOverflows_iff,
    lengthFieldOverflows_iff, decide_eq_true_eq, Bool.false_and, Bool.false_eq_true, if_false, htext, hout]

/-- Two ordered checks that agree in what stands behind them. -/
theorem ite_congr_else {p : Prop} [Decidable p] {u v w : State} (h : ¬ p → v = w) :
    (if p then u else v) = if p then u else w := ite_congr rfl (fun _ => rfl) h

/-- The ciphertext region of CCM_DEC as a DBUF read (spec R103). -/
theorem ccmCiphertext_eq (s : State) : s.payload.take (s.ccmTextLen true)
    = s.dbufRead (s.frameOfs.toNat + s.aadLen.toNat) (s.payloadLen.toNat - s.micLen.toNat) :=
  dbufRead_take s (Nat.sub_le ..)

/-- The tag region of CCM_DEC as a DBUF read (spec R103). -/
theorem ccmTag_eq {s : State} (h : s.micLen.toNat ≤ s.payloadLen.toNat) : s.payload.drop (s.ccmTextLen true)
    = s.dbufRead (s.frameOfs.toNat + s.aadLen.toNat + (s.payloadLen.toNat - s.micLen.toNat)) s.micLen.toNat := by
  have hrest : s.payloadLen.toNat - (s.payloadLen.toNat - s.micLen.toNat) = s.micLen.toNat := by omega
  exact (dbufRead_drop ..).trans (congrArg _ hrest)

/-- Settles O39: the six checks in order, then the two outcomes of ccm_decrypt on the regions of DBUF. -/
theorem ccmDecEffect : Obligations.CcmDecEffect := by
  refine ⟨decodeWord_encodeWord .ccmDec, ?_⟩
  rintro s _ _ _ rfl rfl rfl
  show execCcmDec s = _
  rw [execCcmDec_eq_afterChecks, afterChecks_ccmDec]
  refine congrArg _ (ite_congr_else fun _ => ite_congr_else fun hshort => ite_congr_else fun _ =>
    ite_congr_else fun _ => ite_congr_else fun _ => ite_congr_else fun _ => ?_)
  rw [ccmCiphertext_eq, ccmTag_eq (Nat.not_lt.mp hshort), State.aad]
  generalize hout : ccmDecrypt _ _ _ _ _ = out
  cases out with
  | none => rfl
  | some m =>
    have hlen : m.length = s.payloadLen.toNat - s.micLen.toNat := by rw [ccmDecrypt_length hout, dbufRead_length]
    rw [← hlen]
    rfl

/-- Settles O40: the five checks in order, then ccm_encrypt of the regions of DBUF, whose length the first check fixes. -/
theorem ccmEncEffect : Obligations.CcmEncEffect := by
  refine ⟨decodeWord_encodeWord .ccmEnc, ?_⟩
  rintro s _ _ _ rfl rfl rfl
  show execCcmEnc s = _
  rw [execCcmEnc_eq_afterChecks, afterChecks_ccmEnc]
  refine congrArg _ (ite_congr_else fun hlegal => ite_congr_else fun _ => ite_congr_else fun _ =>
    ite_congr_else fun _ => ite_congr_else fun _ => ?_)
  have hlen := ccmEncrypt_length s.key s.nonce s.aad s.payload
    ((micLenLegal_iff s.micLen.toNat).mpr (not_not.mp hlegal))
  rw [payload_length] at hlen
  rw [← hlen]
  rfl

end Sys2Proof.Machine

/-! PROOFS. The invariant of the machine: what each update of the state, each command and each move of the schedule
keeps (spec R32, R33, R115, R131, R139, R145). -/

namespace Sys2Proof.Machine

open Sys2Proof.Spec

/-! ### The bounds behind the updates -/

/-- A 16-bit count of at most 1 + KR_SLOTS candidates (spec R113, R131). -/
theorem tried_le {n : Nat} (h : n ≤ 1 + Config.krSlots) : (BitVec.ofNat 16 n).toNat ≤ 1 + Config.krSlots := by
  rw [BitVec.toNat_ofNat]
  exact (Nat.mod_le _ _).trans h

theorem hashChecks_detailLegal (s : State) : ∀ c ∈ hashChecks s, c.code.detailLegal c.detail = true := by
  simp [hashChecks, ResultCode.detailLegal]

theorem ccmChecks_detailLegal (decrypting : Bool) (s : State) :
    ∀ c ∈ ccmChecks decrypting s, c.code.detailLegal c.detail = true := by
  simp [ccmChecks, ResultCode.detailLegal]

theorem frameChecks_detailLegal (s : State) : ∀ c ∈ frameChecks s, c.code.detailLegal c.detail = true := by
  simp [frameChecks, ResultCode.detailLegal]

/-- Past the checks of DECRYPT_FRAME the text fits OBUF (spec R118). -/
theorem frameText_length_le_of_checks {s : State} (h : ∀ c ∈ frameChecks s, c.fails = false) :
    s.frameText.length ≤ Config.obufSize := by
  have hlast := h ⟨decide (Config.obufSize < s.frameTextLen), .bounds, 2⟩ (by simp [frameChecks])
  rw [frameText_length]
  exact Nat.not_lt.mp (of_decide_eq_false hlast)

/-- A host write stores into DBUF only inside it (spec R37). -/
theorem writeLoc_dbuf_wf {s : State} {l : Loc} (b : Byte) (hl : ∀ i, l = .dbuf i → i < Config.dbufSize)
    (h : Memory.wf Config.dbufSize s.dbuf) : Memory.wf Config.dbufSize (s.writeLoc l b).dbuf := by
  cases l with
  | dbuf i => exact write_wf b h (hl i rfl)
  | reg r k => cases r <;> exact h
  | array a i => cases a <;> exact h
  | obuf _ | reserved => exact h

theorem storeBytes_dbuf_wf {s : State} (ofs : Nat) (v : Word) (n : Nat) (h : Memory.wf Config.dbufSize s.dbuf) :
    Memory.wf Config.dbufSize (s.storeBytes ofs v n).dbuf := by
  induction n with
  | zero => exact h
  | succ n ih => exact writeLoc_dbuf_wf _ (fun _ hl => locate_dbuf_bound hl) ih

/-! ### The updates of the state -/

namespace State.Inv

variable {s t : State}

theorem withAgenda (h : s.Inv) (agenda : List HostEvent) : ({ s with agenda := agenda } : State).Inv := { h with }

theorem issue (h : s.Inv) (w : Word) : (s.issue w).Inv := { h with busyNotDone := fun _ => rfl }

theorem finish (h : s.Inv) {code : ResultCode} {detail : BitVec 4} (hd : code.detailLegal detail = true) :
    (s.finish code detail).Inv := { h with busyNotDone := nofun, detailOk := hd }

theorem withInfo (h : s.Inv) {info : ResultInfo} (hi : info.tried.toNat ≤ 1 + Config.krSlots) :
    (s.withInfo info).Inv := { h with triedBound := hi }

theorem withhold (h : s.Inv) : s.withhold.Inv := { h with outLenBound := Nat.zero_le _ }

theorem deliver (h : s.Inv) {out : Bytes} (hout : out.length ≤ Config.obufSize) : (s.deliver out).Inv :=
  { h with
    obufWf := writeBytes_wf out h.obufWf (by omega)
    outLenBound := by
      rw [deliver_outLen, BitVec.toNat_ofNat]
      exact (Nat.mod_le _ _).trans hout }

/-- A success names a valid slot, and the flows stay distinct (spec R110, R115). -/
theorem rememberSuccess (h : s.Inv) (src : BitVec 64) (kid : KeyId) {slot : Byte} (hslot : slot.toNat < s.ring.length) :
    (s.rememberSuccess src kid slot).Inv := by
  obtain ⟨-, hr⟩ | ⟨hnew, hroom, hr⟩ | ⟨-, -, hr⟩ := rememberSuccess_cases s src kid slot <;> rw [hr]
  · exact { h with
      cacheBound := (overwriteFlow_length ..).trans_le h.cacheBound
      cacheSlots := fun e he => (mem_overwriteFlow he).elim (fun hs => hs ▸ hslot) (h.cacheSlots e)
      flowsDistinct := overwriteFlow_distinct src kid slot h.flowsDistinct }
  · refine { h with cacheBound := ?_, cacheSlots := fun e he => ?_, flowsDistinct := ?_ }
    · rw [List.length_append]
      exact hroom
    · obtain he | he := List.mem_append.mp he
      · exact h.cacheSlots e he
      · obtain rfl := List.mem_singleton.mp he
        exact hslot
    · refine List.pairwise_append.mpr ⟨h.flowsDistinct, List.pairwise_singleton .., fun e he e' he' => ?_⟩
      obtain rfl := List.mem_singleton.mp he'
      exact hnew e he
  · exact { h with }

/-! ### The commands -/

theorem execNonceBuild (h : s.Inv) (ht : execNonceBuild s = .next t) : t.Inv := by
  unfold Machine.execNonceBuild at ht
  split at ht <;> cases ht
  · refine finish ?_ rfl
    exact { h with }
  · exact h.finish rfl

theorem execHash (h : s.Inv) (ht : execHash s = .next t) : t.Inv := by
  obtain ⟨c, hc, -, hend⟩ | ⟨-, hend⟩ := execHash_cases s <;> cases hend.symm.trans ht
  · exact h.finish (hashChecks_detailLegal s c hc)
  · refine finish ?_ rfl
    exact { h with }

theorem execCcmDec (h : s.Inv) (ht : execCcmDec s = .next t) : t.Inv := by
  obtain ⟨c, hc, -, hend⟩ | ⟨-, hend⟩ | ⟨hpass, m, hm, hend⟩ := execCcmDec_cases s <;> cases hend.symm.trans ht
  · exact h.finish (ccmChecks_detailLegal true s c hc)
  · exact h.withhold.finish rfl
  · exact (h.deliver (hm.trans_le (ccmOutputLen_le_of_checks hpass))).finish rfl

theorem execCcmEnc (h : s.Inv) (ht : execCcmEnc s = .next t) : t.Inv := by
  obtain ⟨c, hc, -, hend⟩ | ⟨hpass, out, hout, hend⟩ := execCcmEnc_cases s <;> cases hend.symm.trans ht
  · exact h.finish (ccmChecks_detailLegal false s c hc)
  · exact (h.deliver (hout.trans_le (ccmOutputLen_le_of_checks hpass))).finish rfl

/-- KR_LOAD adds a key only where there is room, and no cached slot loses its key (spec R107). -/
theorem execKrLoad (h : s.Inv) (ht : execKrLoad s = .next t) : t.Inv := by
  unfold Machine.execKrLoad State.krCount at ht
  split at ht <;> cases ht
  · exact h.finish rfl
  · rename_i hroom
    have hlen : (s.ring ++ [s.loadedEntry]).length = s.ring.length + 1 := List.length_append
    refine finish ?_ rfl
    refine { h with ringBound := ?_, cacheSlots := fun e he => ?_, triedBound := Nat.zero_le _ }
    · exact hlen.trans_le (Nat.lt_of_le_of_ne h.ringBound hroom)
    · exact (Nat.lt_succ_of_lt (h.cacheSlots e he)).trans_eq hlen.symm

theorem execKrClear (h : s.Inv) (ht : execKrClear s = .next t) : t.Inv := by
  cases ht
  refine finish ?_ rfl
  exact { h with
    ringBound := Nat.zero_le _
    cacheBound := Nat.zero_le _
    cacheSlots := fun _ he => absurd he List.not_mem_nil
    flowsDistinct := .nil }

theorem execKrRead (h : s.Inv) (ht : execKrRead s = .next t) : t.Inv := by
  unfold Machine.execKrRead at ht
  split at ht <;> cases ht
  · exact h.finish rfl
  · refine finish ?_ rfl
    exact { h with }

theorem execFcRemember (h : s.Inv) (ht : execFcRemember s = .next t) : t.Inv := by
  obtain ⟨-, hend⟩ | ⟨-, -, hend⟩ | ⟨hslot, -, hend⟩ := execFcRemember_cases s <;> cases hend.symm.trans ht
  · exact h.finish rfl
  · exact h.finish rfl
  · exact (h.rememberSuccess s.src (ctrlKeyId s.secCtrl) hslot).finish rfl

theorem frameNoSource (h : s.Inv) (hout : s.frameText.length ≤ Config.obufSize) : s.frameNoSource.Inv := by
  unfold State.frameNoSource
  split
  · exact h.withhold.finish rfl
  · exact (h.deliver hout).finish rfl

theorem frameDecrypted (h : s.Inv) {c : Candidate} {tried : Nat} {out : Bytes} (hout : out.length ≤ Config.obufSize)
    (hslot : c.slot < s.ring.length) (htried : tried ≤ 1 + Config.krSlots) : (s.frameDecrypted c tried out).Inv := by
  have hslot' : (BitVec.ofNat 8 c.slot).toNat < s.ring.length := by
    rw [BitVec.toNat_ofNat]
    exact (Nat.mod_le _ _).trans_lt hslot
  rw [frameDecrypted_eq]
  exact (((h.deliver hout).withInfo (tried_le htried)).rememberSuccess s.src s.frameKeyId hslot').finish rfl

theorem frameExhausted (h : s.Inv) {tried : Nat} (hout : s.frameText.length ≤ Config.obufSize)
    (htried : tried ≤ 1 + Config.krSlots) : (s.frameExhausted tried).Inv := by
  rw [frameExhausted_eq]
  split
  · exact (h.withhold.withInfo (tried_le htried)).finish rfl
  · exact ((h.deliver hout).withInfo (tried_le htried)).finish rfl

/-- At most 1 + KR_SLOTS candidates are tried, each a valid slot (spec R113, R115). -/
theorem decryptFrame (h : s.Inv) : s.decryptFrame.Inv := by
  have hcount : ∀ src kid, (s.candidatesFor src kid).length ≤ 1 + Config.krSlots := fun src kid =>
    (candidatesFor_length s src kid).trans (Nat.add_le_add_left h.ringBound 1)
  obtain ⟨c, hc, -, hend⟩ | ⟨hpass, hend⟩ := decryptFrame_cases s
  · rw [hend]
    exact h.finish (frameChecks_detailLegal s c hc)
  · have hout := frameText_length_le_of_checks hpass
    obtain ⟨-, hend⟩ | ⟨-, -, hend⟩ | ⟨-, -, before, c, after, out, hcand, -, hok, hend⟩ | ⟨-, -, -, hend⟩ := hend <;>
      rw [hend]
    · exact (h.deliver hout).finish rfl
    · exact h.frameNoSource hout
    · refine h.frameDecrypted ((attempt_length hok).trans_le hout) ?_ ?_
      · exact candidatesFor_slot_lt h.cacheSlots (hcand ▸ List.mem_append_right _ (List.mem_cons_self ..))
      · refine Nat.le_trans ?_ (hcount s.src s.frameKeyId)
        rw [hcand, List.length_append, List.length_cons]
        omega
    · exact h.frameExhausted hout (hcount _ _)

/-- Every command keeps the invariant. -/
theorem exec {i : Instr} (h : s.Inv) (ht : exec i s = .next t) : t.Inv := by
  cases i with
  | nop | ecbEnc | derive =>
    cases ht
    refine finish ?_ rfl
    exact { h with }
  | nonceBuild => exact h.execNonceBuild ht
  | hash => exact h.execHash ht
  | ccmDec => exact h.execCcmDec ht
  | ccmEnc => exact h.execCcmEnc ht
  | krLoad => exact h.execKrLoad ht
  | krClear => exact h.execKrClear ht
  | krRead => exact h.execKrRead ht
  | fcRemember => exact h.execFcRemember ht
  | decryptFrame =>
    cases ht
    exact (h.withInfo (Nat.zero_le _)).decryptFrame

/-! ### The moves of the host and of the reset input -/

/-- The host writes neither the tables nor the results, and DBUF only inside it; an idle core may hold DONE (spec R10). -/
theorem storeBytes (h : s.Inv) (hidle : s.busy = false) (ofs : Nat) (v : Word) (n : Nat) :
    (s.storeBytes ofs v n).Inv where
  ringBound := by simpa using h.ringBound
  cacheBound := by simpa using h.cacheBound
  cacheSlots := by simpa using h.cacheSlots
  flowsDistinct := by simpa using h.flowsDistinct
  dbufWf := storeBytes_dbuf_wf ofs v n h.dbufWf
  obufWf := by simpa using h.obufWf
  busyNotDone := by
    have hbusy : (s.storeBytes ofs v n).busy = false := by rw [State.busy, storeBytes_pending]; exact hidle
    simp [hbusy]
  detailOk := by simpa using h.detailOk
  outLenBound := by simpa using h.outLenBound
  triedBound := by simpa using h.triedBound

/-- The state after reset, whatever it keeps of the model's own fields (spec R154). -/
theorem assertReset (s : State) : s.assertReset.Inv where
  ringBound := Nat.zero_le _
  cacheBound := Nat.zero_le _
  cacheSlots := fun _ he => absurd he List.not_mem_nil
  flowsDistinct := .nil
  dbufWf := (reset_wf _).1
  obufWf := (reset_wf _).2
  busyNotDone := nofun
  detailOk := rfl
  outLenBound := Nat.zero_le _
  triedBound := Nat.zero_le _

end State.Inv

/-- Settles O22, by the move the step makes: the engine's turn, a read, a reset, or one of the four kinds of write. -/
theorem everyStepKeepsTheInvariant : Obligations.EveryStepKeepsTheInvariant := by
  intro s t h hstep
  obtain ⟨u, rfl, hmove⟩ := step_cases hstep
  have hu := h.withAgenda s.agenda.tail
  obtain ⟨rfl, -⟩ | ⟨w, i, -, -, hexec⟩ | ⟨-, rfl⟩ | ⟨w, ofs, rfl⟩ | rfl | ⟨w, ofs, -, rfl⟩ | ⟨w, ofs, -, rfl⟩
    | ⟨w, -, rfl⟩ | ⟨w, ofs, v, hidle, rfl⟩ := hmove
  · exact hu
  · exact hu.exec hexec
  · exact hu.finish rfl
  · exact { hu with }
  · exact .assertReset _
  · exact { hu with }
  · exact { hu with }
  · exact hu.issue w
  · exact hu.storeBytes hidle ofs v w.bytes

end Sys2Proof.Machine

/-! PROOFS. The key ring and the flow cache: the four commands on them, remember_success, and the candidate order (spec
R107 to R114). -/

namespace Sys2Proof.Machine

open Sys2Proof.Spec

/-! ### Overwriting a flow's entry (spec R110) -/

section
variable {src : BitVec 64} {kid : KeyId}

/-- Every flow test that another flow's entry passes, this flow's entry fails (spec R33). -/
theorem isFlow_eq_false_of_ne {e : FlowEntry} {src' : BitVec 64} {kid' : KeyId} (he : e.isFlow src kid = true)
    (hne : ¬ (src' = src ∧ kid' = kid)) : e.isFlow src' kid' = false := by
  rw [isFlow_iff] at he
  rw [Bool.eq_false_iff, Ne, isFlow_iff]
  rintro ⟨rfl, rfl⟩
  exact hne ⟨he.1, he.2⟩

@[simp] theorem isFlow_withSlot (e : FlowEntry) (slot : Byte) :
    ({ e with slot := slot } : FlowEntry).isFlow src kid = e.isFlow src kid := rfl

/-- The entry that is overwritten is the one that is found. -/
theorem find?_overwriteFlow (slot : Byte) (c : List FlowEntry) :
    (overwriteFlow src kid slot c).find? (·.isFlow src kid)
      = (c.find? (·.isFlow src kid)).map fun e => { e with slot := slot } := by
  induction c with
  | nil => rfl
  | cons e rest ih => cases he : e.isFlow src kid <;> simp [overwriteFlow, he, ih]

/-- Another flow's entry is found as before. -/
theorem find?_overwriteFlow_other {src' : BitVec 64} {kid' : KeyId} (slot : Byte)
    (hne : ¬ (src' = src ∧ kid' = kid)) (c : List FlowEntry) :
    (overwriteFlow src kid slot c).find? (·.isFlow src' kid') = c.find? (·.isFlow src' kid') := by
  induction c with
  | nil => rfl
  | cons e rest ih =>
    cases he : e.isFlow src kid with
    | false => simp [overwriteFlow, he, List.find?_cons, ih]
    | true => simp [overwriteFlow, he, isFlow_eq_false_of_ne he hne]

/-- The last writer wins. -/
theorem overwriteFlow_overwriteFlow (slot slot' : Byte) (c : List FlowEntry) :
    overwriteFlow src kid slot (overwriteFlow src kid slot' c) = overwriteFlow src kid slot c := by
  induction c with
  | nil => rfl
  | cons e rest ih => cases he : e.isFlow src kid <;> simp [overwriteFlow, he, ih]

/-- A flow found at the end alone is overwritten there. -/
theorem overwriteFlow_append_of_absent (slot slot' : Byte) {c : List FlowEntry}
    (h : ∀ e ∈ c, ¬ (e.src = src ∧ e.kid = kid)) :
    overwriteFlow src kid slot (c ++ [⟨src, kid, slot'⟩]) = c ++ [⟨src, kid, slot⟩] := by
  induction c with
  | nil => simp [overwriteFlow, FlowEntry.isFlow]
  | cons e rest ih =>
    have he : ¬ e.isFlow src kid = true := fun hf => h e (List.mem_cons_self ..) ((isFlow_iff ..).mp hf)
    rw [List.cons_append, overwriteFlow, if_neg he, ih fun d hd => h d (List.mem_cons_of_mem _ hd), List.cons_append]

/-- In a cache of distinct flows at most one entry is overwritten, so overwriting is a map (spec R33). -/
theorem overwriteFlow_eq_map (slot : Byte) {c : List FlowEntry} (h : c.Pairwise FlowEntry.differs) :
    overwriteFlow src kid slot c = c.map fun e => if e.src = src ∧ e.kid = kid then { e with slot := slot } else e := by
  induction c with
  | nil => rfl
  | cons e rest ih =>
    obtain ⟨hfirst, hrest⟩ := List.pairwise_cons.mp h
    by_cases he : e.src = src ∧ e.kid = kid
    · have hkept : ∀ d ∈ rest, (if d.src = src ∧ d.kid = kid then { d with slot := slot } else d) = d :=
        fun d hd => if_neg fun hd' => hfirst d hd ⟨he.1.trans hd'.1.symm, he.2.trans hd'.2.symm⟩
      rw [overwriteFlow, if_pos ((isFlow_iff ..).mpr he), List.map_cons, if_pos he, List.map_congr_left hkept,
        List.map_id']
    · rw [overwriteFlow, if_neg (mt (isFlow_iff ..).mp he), List.map_cons, if_neg he, ih hrest]

end

/-! ### remember_success (spec R110) -/

/-- The cache holds an entry of the flow. -/
abbrev State.Knows (s : State) (src : BitVec 64) (kid : KeyId) : Prop := ∃ e ∈ s.cache, e.src = src ∧ e.kid = kid

section
variable {s : State} {src : BitVec 64} {kid : KeyId}

theorem cached_isSome_iff : (s.cached src kid).isSome = true ↔ s.Knows src kid := by
  simp only [State.cached, List.find?_isSome, isFlow_iff, State.Knows]

theorem rememberSuccess_of_knows (slot : Byte) (h : s.Knows src kid) :
    s.rememberSuccess src kid slot = { s with cache := overwriteFlow src kid slot s.cache } :=
  if_pos (cached_isSome_iff.mpr h)

theorem rememberSuccess_of_room (slot : Byte) (h : ¬ s.Knows src kid) (hroom : s.cache.length < Config.fcSlots) :
    s.rememberSuccess src kid slot = { s with cache := s.cache ++ [⟨src, kid, slot⟩] } :=
  (if_neg (mt cached_isSome_iff.mp h)).trans (if_pos hroom)

theorem rememberSuccess_of_full (slot : Byte) (h : ¬ s.Knows src kid) (hfull : ¬ s.cache.length < Config.fcSlots) :
    s.rememberSuccess src kid slot = { s with fcfull := true } :=
  (if_neg (mt cached_isSome_iff.mp h)).trans (if_neg hfull)

theorem not_knows_iff : ¬ s.Knows src kid ↔ ∀ e ∈ s.cache, ¬ (e.src = src ∧ e.kid = kid) := by
  simp [State.Knows]

end

/-- Of two successes for a flow the later alone counts. -/
theorem rememberSuccess_rememberSuccess (s : State) (src : BitVec 64) (kid : KeyId) (slot slot' : Byte) :
    (s.rememberSuccess src kid slot').rememberSuccess src kid slot = s.rememberSuccess src kid slot := by
  by_cases hk : s.Knows src kid
  · have hk' : ({ s with cache := overwriteFlow src kid slot' s.cache } : State).Knows src kid := by
      rw [← cached_isSome_iff, State.cached, find?_overwriteFlow, Option.isSome_map]
      exact cached_isSome_iff.mpr hk
    rw [rememberSuccess_of_knows slot' hk, rememberSuccess_of_knows slot hk, rememberSuccess_of_knows slot hk',
      overwriteFlow_overwriteFlow]
  · by_cases hroom : s.cache.length < Config.fcSlots
    · have hk' : ({ s with cache := s.cache ++ [⟨src, kid, slot'⟩] } : State).Knows src kid :=
        ⟨_, List.mem_append_right _ (List.mem_singleton_self _), rfl, rfl⟩
      rw [rememberSuccess_of_room slot' hk hroom, rememberSuccess_of_room slot hk hroom,
        rememberSuccess_of_knows slot hk', overwriteFlow_append_of_absent slot slot' (not_knows_iff.mp hk)]
    · rw [rememberSuccess_of_full slot' hk hroom, rememberSuccess_of_full slot hk hroom]
      exact rememberSuccess_of_full slot hk hroom

/-- Settles O49: overwriting in a cache of distinct flows is a map, and the last writer wins. -/
theorem rememberSuccessRule : Obligations.RememberSuccessRule := by
  refine fun s src kid slot => ⟨fun hdistinct => ?_, fun slot' => rememberSuccess_rememberSuccess s src kid slot slot'⟩
  by_cases hk : s.Knows src kid
  · rw [rememberSuccess_of_knows slot hk, if_pos hk, overwriteFlow_eq_map slot hdistinct]
  · rw [if_neg hk]
    split
    next hroom => exact rememberSuccess_of_room slot hk hroom
    next hfull => exact rememberSuccess_of_full slot hk hfull

/-! ### The commands on the key ring and the cache (spec R107 to R109, R111) -/

/-- Settles O45: the two branches of KR_LOAD. -/
theorem krLoadEffect : Obligations.KrLoadEffect := by
  refine ⟨decodeWord_encodeWord .krLoad, fun s => ?_⟩
  show execKrLoad s = _
  rw [execKrLoad, State.krCount]
  split
  · rfl
  · rfl

/-- Settles O46: KR_CLEAR is a write of the two tables and the completion with OK. -/
theorem krClearEffect : Obligations.KrClearEffect := ⟨decodeWord_encodeWord .krClear, fun _ => rfl⟩

theorem execKrRead_badSlot {s : State} (h : s.ring.length ≤ s.krArg.slot.toNat) :
    execKrRead s = .next (s.finish .badSlot 0) := by
  rw [execKrRead, List.getElem?_eq_none h]

theorem execKrRead_entry {s : State} {e : KeyEntry} (h : s.ring[s.krArg.slot.toNat]? = some e) :
    execKrRead s = .next (State.finish
      { s with rdKey := e.key, rdMeta := ⟨true, e.cls.bits, e.origin.toBit⟩, rdProv := e.prov, rdLabel := e.label }
      .ok 0) := by
  rw [execKrRead, h]

/-- RD_META of a valid entry: the formula of spec R109, for each class and origin. -/
theorem RdMeta.word_entry (cls : KeyId) (origin : Origin) :
    RdMeta.word ⟨true, cls.bits, origin.toBit⟩
      = 1 ||| (cls.bits.setWidth 32 <<< 1) ||| ((if origin = .sniffed then 1 else 0) <<< 3) := by
  cases cls <;> cases origin <;> rfl

/-- Settles O47: KR_READ of an invalid and of a valid slot. -/
theorem krReadEffect : Obligations.KrReadEffect :=
  ⟨decodeWord_encodeWord .krRead, fun _ => ⟨execKrRead_badSlot, fun e he =>
    ⟨_, execKrRead_entry he, RdMeta.word_entry e.cls e.origin⟩⟩⟩

/-- Settles O48: the three ways FC_REMEMBER can end. -/
theorem fcRememberEffect : Obligations.FcRememberEffect := by
  refine ⟨decodeWord_encodeWord .fcRemember, fun s => ?_⟩
  show execFcRemember s = _
  obtain ⟨hbad, h⟩ | ⟨hslot, hsrc, h⟩ | ⟨hslot, hsrc, h⟩ := execFcRemember_cases s <;> rw [h]
  · rw [if_pos hbad]
    rfl
  · rw [if_neg (Nat.not_le.mpr hslot), if_pos hsrc]
    rfl
  · rw [if_neg (Nat.not_le.mpr hslot), if_neg (by rw [hsrc]; decide)]
    rfl

/-! ### The candidates (spec R112, R113) -/

/-- The selected slots are the slots of the list, filtered. -/
theorem slotsWhere_eq_filter (test : KeyEntry → Bool) (n : Nat) (l : List KeyEntry) :
    slotsWhere test n l = ((List.range l.length).filter fun k => l[k]?.any test).map (n + ·) := by
  induction l generalizing n with
  | nil => rfl
  | cons e rest ih =>
    have hshift : (fun k => n + 1 + k) = fun k => n + (k + 1) := by
      funext k
      omega
    rw [slotsWhere, ih, List.length_cons, List.range_succ_eq_map, List.filter_cons, List.filter_map, hshift]
    cases he : test e <;> simp [he, Function.comp_def]

/-- The slots a test selects from the whole ring, by a test of the slot that agrees with it. -/
theorem slotsWhere_eq_filter_of_forall {test : KeyEntry → Bool} {l : List KeyEntry} {p : Nat → Bool}
    (h : ∀ k, p k = l[k]?.any test) : slotsWhere test 0 l = (List.range l.length).filter p := by
  rw [slotsWhere_eq_filter, funext h]
  simp

theorem sniffedFor_eq (e : KeyEntry) (kid : KeyId) :
    e.sniffedFor kid = decide (e.origin = .sniffed ∧ e.cls = if kid = .network then .network else .link) := by
  have hcls : kid.sniffedClass = if kid = .network then .network else .link := by cases kid <;> rfl
  rw [KeyEntry.sniffedFor, hcls, Bool.decide_and]
  rfl

theorem isFlow_eq_decide (e : FlowEntry) (src : BitVec 64) (kid : KeyId) :
    e.isFlow src kid = decide (e.src = src ∧ e.kid = kid) := by
  rw [FlowEntry.isFlow, Bool.decide_and]
  rfl

/-- The flow's cached slot alone depends on the cache (spec R113). -/
theorem candidatesFor_eq (s : State) (src : BitVec 64) (kid : KeyId) :
    s.candidatesFor src kid
      = ((s.cached src kid).map fun e => ⟨e.slot.toNat, true⟩).toList
        ++ ({ s with cache := [] } : State).candidatesFor src kid := by
  have hempty : ({ s with cache := [] } : State).cached src kid = none := rfl
  rw [State.candidatesFor, State.candidatesFor, hempty]
  cases s.cached src kid <;> rfl

theorem cached_eq_find? (s : State) (src : BitVec 64) (kid : KeyId) :
    s.cached src kid = s.cache.find? fun e => decide (e.src = src ∧ e.kid = kid) := by
  simp only [State.cached, isFlow_eq_decide]

/-- Settles O50: the cached slot, and two filtered ranges with the tests the rule words. -/
theorem candidateOrder : Obligations.CandidateOrder := by
  refine fun s src kid => ⟨candidatesFor_length s src kid, ?_⟩
  refine congrArg₂ (· ++ ·) (congrArg₂ (· ++ ·) ?_ (congrArg _ ?_)) (congrArg _ ?_)
  · exact cached_eq_find? s src kid ▸ rfl
  · refine slotsWhere_eq_filter_of_forall fun k => ?_
    cases s.ring[k]? with
    | none => rfl
    | some e => exact (sniffedFor_eq e kid).symm
  · refine slotsWhere_eq_filter_of_forall fun k => ?_
    cases s.ring[k]? <;> rfl

/-- The cached slot of a flow once a success is remembered for it. -/
theorem cached_rememberSuccess {s : State} {src : BitVec 64} {kid : KeyId} (slot : Byte)
    (h : s.Knows src kid ∨ s.cache.length < Config.fcSlots) :
    (s.rememberSuccess src kid slot).cached src kid = some ⟨src, kid, slot⟩ := by
  by_cases hk : s.Knows src kid
  · obtain ⟨e, he⟩ := Option.isSome_iff_exists.mp (cached_isSome_iff.mpr hk)
    have hflow : e.isFlow src kid = true := List.find?_some (p := fun d : FlowEntry => d.isFlow src kid) he
    obtain ⟨rfl, rfl⟩ := (isFlow_iff e src kid).mp hflow
    rw [rememberSuccess_of_knows slot hk, State.cached, find?_overwriteFlow, ← State.cached, he, Option.map_some]
  · have hnone : s.cached src kid = none := Option.not_isSome_iff_eq_none.mp (mt cached_isSome_iff.mp hk)
    rw [rememberSuccess_of_room slot hk (h.resolve_left hk), State.cached, List.find?_append, ← State.cached, hnone]
    simp [FlowEntry.isFlow]

/-- The cached slot of every other flow is kept. -/
theorem cached_rememberSuccess_other (s : State) {src src' : BitVec 64} {kid kid' : KeyId} (slot : Byte)
    (hne : ¬ (src' = src ∧ kid' = kid)) : (s.rememberSuccess src kid slot).cached src' kid' = s.cached src' kid' := by
  obtain ⟨-, h⟩ | ⟨-, -, h⟩ | ⟨-, -, h⟩ := rememberSuccess_cases s src kid slot <;> rw [h]
  · exact find?_overwriteFlow_other slot hne s.cache
  · have hnew : ([⟨src, kid, slot⟩] : List FlowEntry).find? (·.isFlow src' kid') = none := by
      rw [List.find?_singleton, isFlow_eq_false_of_ne ((isFlow_iff ..).mpr ⟨rfl, rfl⟩) hne]
      rfl
    rw [State.cached, List.find?_append, hnew, Option.or_none, State.cached]
  · rfl

/-- Without a cache the candidates depend on the ring alone (spec R113). -/
theorem candidatesFor_emptyCache_congr {s t : State} (h : t.ring = s.ring) (src : BitVec 64) (kid : KeyId) :
    ({ t with cache := [] } : State).candidatesFor src kid = ({ s with cache := [] } : State).candidatesFor src kid := by
  simp only [State.candidatesFor, State.cached, h]

/-- Settles O51: only the flow's own cached slot is new, and the ring is kept. -/
theorem rememberedKeyIsTheFirstCandidate : Obligations.RememberedKeyIsTheFirstCandidate := by
  refine fun s src kid slot => ⟨fun hkept => ?_, fun src' kid' hne => ?_⟩
  · rw [candidatesFor_eq, cached_rememberSuccess slot hkept, candidatesFor_emptyCache_congr (rememberSuccess_ring ..)]
    rfl
  · rw [candidatesFor_eq, cached_rememberSuccess_other s slot hne,
      candidatesFor_emptyCache_congr (rememberSuccess_ring ..), ← candidatesFor_eq]

end Sys2Proof.Machine

/-! PROOFS. DECRYPT_FRAME: its checks in order, its endings without a trial, how the trial of the candidates ends, and
what one attempt computes (spec R116 to R128). -/

namespace Sys2Proof.Machine

open Sys2Proof.Spec

/-! ### The checks (spec R118) -/

/-- What DECRYPT_FRAME reads does not depend on RESULT_INFO (spec R128). -/
theorem sameFrame_withInfo (s : State) (info : ResultInfo) : SameFrame s (s.withInfo info) :=
  ⟨rfl, rfl, rfl, rfl, rfl, rfl, rfl, rfl, rfl, rfl, rfl, rfl⟩

/-- A failing check ends DECRYPT_FRAME with its code and detail, RESULT_INFO cleared (spec R127, R141). -/
theorem exec_decryptFrame_of_check {s : State} {c : Check} (h : firstFailure (frameChecks s) = some c) :
    exec .decryptFrame s = .next ((s.withInfo ResultInfo.zero).finish c.code c.detail) := by
  rw [exec_decryptFrame_eq, State.decryptFrame, (sameFrame_withInfo s ResultInfo.zero).frameChecks, h]

/-- The text's blocks fit the 16-bit counter exactly when the check on them does not fail. -/
theorem counter_fits_iff {enc : Bool} {n : Nat} : (enc = true → n ≤ 2 ^ 16) ↔ ¬ (enc = true ∧ 2 ^ 16 < n) := by
  rw [not_and, Nat.not_lt]

/-- The length fields of the tag computation fit their two bytes exactly when the check on them does not fail. -/
theorem lengthFields_fit_iff {enc : Bool} {M la lm : Nat} :
    (0 < M → if enc then la ≤ 0xFFFF ∧ lm ≤ 0xFFFF else la + lm ≤ 0xFFFF)
      ↔ ¬ (0 < M ∧ if enc then 0xFFFF < la ∨ 0xFFFF < lm else 0xFFFF < la + lm) := by
  rw [not_and]
  cases enc <;> simp

theorem firstFailure_of_frameChecksPass {s : State} (h : frameChecksPass s) : firstFailure (frameChecks s) = none := by
  obtain ⟨hmic, hcounter, hfields, hdbuf, hobuf⟩ := h
  rw [firstFailure_frameChecks, if_neg (Nat.not_lt.mpr hmic), if_neg (counter_fits_iff.mp hcounter),
    if_neg (lengthFields_fit_iff.mp hfields), if_neg (Nat.not_lt.mpr hdbuf), if_neg (Nat.not_lt.mpr hobuf)]

/-- Settles O52: the inequality of each check, behind those of the checks before it. -/
theorem decryptFrameChecks : Obligations.DecryptFrameChecks := by
  refine ⟨decodeWord_encodeWord .decryptFrame, ?_⟩
  rintro s _ _ _ rfl rfl rfl
  have hfirst := firstFailure_frameChecks s
  refine ⟨fun hshort => ?_, fun hmic henc hcounter => ?_, fun hmic hcounter htag hfields => ?_,
    fun hmic hcounter hfields hdbuf => ?_⟩
  · rw [if_pos hshort] at hfirst
    exact exec_decryptFrame_of_check hfirst
  · rw [if_neg (Nat.not_lt.mpr hmic), if_pos ⟨henc, hcounter⟩] at hfirst
    exact exec_decryptFrame_of_check hfirst
  · rw [if_neg (Nat.not_lt.mpr hmic), if_neg (counter_fits_iff.mp hcounter), if_pos ⟨htag, hfields⟩] at hfirst
    exact exec_decryptFrame_of_check hfirst
  · rw [if_neg (Nat.not_lt.mpr hmic), if_neg (counter_fits_iff.mp hcounter), if_neg (lengthFields_fit_iff.mp hfields),
      if_pos hdbuf] at hfirst
    exact exec_decryptFrame_of_check hfirst

/-! ### Past the checks (spec R119, R120) -/

/-- The completion of DECRYPT_FRAME after the trial of its candidates (spec R125, R126). -/
def State.endTrial (s : State) : Trial → State
  | .decrypted c tried out => s.frameDecrypted c tried out
  | .exhausted tried => s.frameExhausted tried

/-- DECRYPT_FRAME when no check fails: level None, the trial, or no source address (spec R128). -/
theorem exec_decryptFrame_of_pass {s : State} (h : frameChecksPass s) : exec .decryptFrame s = .next
    (if s.level = .none then ((s.withInfo ResultInfo.zero).deliver s.frameText).finish .passThru 0
      else if s.hdrFlags.srcValid then (s.withInfo ResultInfo.zero).endTrial s.tryFrame
      else (s.withInfo ResultInfo.zero).frameNoSource) := by
  have hsame := sameFrame_withInfo s ResultInfo.zero
  rw [exec_decryptFrame_eq, State.decryptFrame, hsame.frameChecks, firstFailure_of_frameChecksPass h, hsame.level,
    hsame.srcValid, hsame.frameText, hsame.tryFrame]
  cases s.tryFrame <;> rfl

/-- Delivering the frame's text: the payload region without its tag, from OBUF offset 0 (spec R119, R120, R126). -/
theorem deliver_frameText (s : State) : s.deliver s.frameText =
    { s with
      obuf := Memory.writeBytes s.obuf 0 (frameText s)
      outLen := BitVec.ofNat 32 (s.payloadLen.toNat - s.level.micLen) } := by
  rw [State.deliver, frameText_length, frameText_eq]
  rfl

/-- At level None the delivered text is the whole payload region (spec R119). -/
theorem deliver_frameText_of_levelNone {s : State} (h : s.level = .none) : s.deliver s.frameText =
    { s with obuf := Memory.writeBytes s.obuf 0 (frameText s), outLen := s.payloadLen } := by
  have hlen : BitVec.ofNat 32 (s.payloadLen.toNat - s.level.micLen) = s.payloadLen := by
    rw [h]
    exact BitVec.ofNat_toNat ..
  rw [deliver_frameText, hlen]

/-- Settles O53: the branches of level None and of a missing source address. -/
theorem decryptFrameWithoutTrial : Obligations.DecryptFrameWithoutTrial := by
  intro s hpass
  have hclear := sameFrame_withInfo s ResultInfo.zero
  rw [exec_decryptFrame_of_pass hpass]
  refine ⟨fun hlevel => ?_, fun hlevel hsrc henc => ?_, fun hlevel hsrc henc => ?_⟩
  · rw [if_pos hlevel, ← hclear.frameText, deliver_frameText_of_levelNone (hclear.level.trans hlevel)]
    rfl
  · rw [if_neg hlevel, hsrc, State.frameNoSource, hclear.level, henc]
    rfl
  · rw [if_neg hlevel, hsrc, State.frameNoSource, hclear.level, henc, deliver_frameText]
    rfl

/-! ### The trial of the candidates (spec R124 to R126) -/

/-- The trial stops at the first candidate that succeeds (spec R125). -/
theorem tryCandidates_first_success {attempt : Nat → Option Bytes} {before : List Candidate} {c : Candidate}
    {out : Bytes} (hbefore : ∀ b ∈ before, attempt b.slot = none) (hc : attempt c.slot = some out) (n : Nat)
    (after : List Candidate) :
    tryCandidates attempt n (before ++ c :: after) = .decrypted c (n + before.length + 1) out := by
  induction before generalizing n with
  | nil => simp [tryCandidates, hc]
  | cons b rest ih =>
    obtain ⟨hb, hrest⟩ := List.forall_mem_cons.mp hbefore
    rw [List.cons_append, tryCandidates, hb, ih hrest, List.length_cons, Nat.add_right_comm n, Nat.add_assoc n]

/-- A trial without a success counts every candidate (spec R126). -/
theorem tryCandidates_no_success {attempt : Nat → Option Bytes} {cs : List Candidate}
    (h : ∀ c ∈ cs, attempt c.slot = none) (n : Nat) : tryCandidates attempt n cs = .exhausted (n + cs.length) := by
  induction cs generalizing n with
  | nil => rfl
  | cons c rest ih =>
    obtain ⟨hc, hrest⟩ := List.forall_mem_cons.mp h
    rw [tryCandidates, hc, ih hrest, List.length_cons, Nat.add_right_comm n, Nat.add_assoc n]

/-- An output delivered and RESULT_INFO set (spec R125). -/
def State.withOutput (s : State) (out : Bytes) (info : ResultInfo) : State := (s.deliver out).withInfo info

/-- Remembering a success neither reads nor writes what the output is written to (spec R110). -/
theorem rememberSuccess_withOutput (s : State) (out : Bytes) (info : ResultInfo) (src : BitVec 64) (kid : KeyId)
    (slot : Byte) :
    (s.withOutput out info).rememberSuccess src kid slot = (s.rememberSuccess src kid slot).withOutput out info := by
  have hcached : (s.withOutput out info).cached src kid = s.cached src kid := rfl
  have hcount : (s.withOutput out info).fcCount = s.fcCount := rfl
  rw [rememberSuccess_eq, rememberSuccess_eq, hcached, hcount]
  split_ifs <;> rfl

/-- A successful trial of the cleared state: the success remembered, the output written, OK (spec R125, R127). -/
theorem frameDecrypted_withInfo (s : State) (old : ResultInfo) (c : Candidate) (tried : Nat) (out : Bytes) :
    (s.withInfo old).frameDecrypted c tried out =
      ((s.rememberSuccess s.src s.frameKeyId (BitVec.ofNat 8 c.slot)).withOutput out
        ⟨BitVec.ofNat 8 c.slot, true, c.fromCache, BitVec.ofNat 16 tried⟩).finish .ok 0 := by
  rw [← rememberSuccess_withOutput]
  rfl

/-- Settles O54: the trial stops at the first success, and remembering it commutes with the output. -/
theorem decryptFrameFirstSuccess : Obligations.DecryptFrameFirstSuccess := by
  intro s before after c out hpass hlevel hsrc hcands hbefore hc
  refine ⟨by rw [attempt_length hc, frameText_length, State.frameTextLen], ?_⟩
  have htrial : s.tryFrame = .decrypted c (before.length + 1) out := by
    rw [State.tryFrame, State.src, hcands, tryCandidates_first_success hbefore hc, Nat.zero_add]
  rw [exec_decryptFrame_of_pass hpass, if_neg hlevel, if_pos hsrc, htrial, State.endTrial, frameDecrypted_withInfo,
    State.withOutput, State.deliver, State.obufWrite, rememberSuccess_obuf]
  rfl

/-- Settles O55: the trial passes every candidate, and the level decides whether the payload is delivered. -/
theorem decryptFrameNoSuccess : Obligations.DecryptFrameNoSuccess := by
  intro s hpass hlevel hsrc hnone
  have htrial : s.tryFrame = .exhausted (s.candidatesFor (s.srcHi ++ s.srcLo) s.frameKeyId).length := by
    rw [State.tryFrame, State.src, tryCandidates_no_success hnone, Nat.zero_add]
  rw [exec_decryptFrame_of_pass hpass, if_neg hlevel, if_pos hsrc, htrial, State.endTrial, State.frameExhausted,
    deliver_frameText]
  rfl

/-! ### One attempt (spec R121 to R123) -/

theorem slotKey_of_entry {s : State} {slot : Nat} {e : KeyEntry} (h : s.ring[slot]? = some e) :
    s.slotKey slot = e.key := by
  rw [State.slotKey, h]

/-- The associated data byte by byte, its control byte replaced (spec R121). -/
theorem patchedAad_eq_map (s : State) : s.patchedAad = (List.range s.aadLen.toNat).map fun i =>
    if i = s.ctrlOfs.toNat then s.effCtrl else s.dbufByte (s.frameOfs.toNat + i) := by
  refine List.ext_getElem (by simp) fun i _ _ => ?_
  simp [State.patchedAad, State.aad, State.dbufRead, List.getElem_set, eq_comm]

/-- An attempt at an integrity-only level gives back the text, when its tag verifies (spec R123). -/
theorem attemptWith_integrityOnly (K : Block) (N : Nonce) (a ct U : Bytes) :
    attemptWith false K N a ct U = if (ccmDecrypt K N (a ++ ct) [] U).isSome then some ct else none := by
  show (ccmDecrypt K N (a ++ ct) [] U).map _ = _
  cases ccmDecrypt K N (a ++ ct) [] U <;> rfl

/-- Settles O56: the operands of the attempt as the rules word them, then the two kinds of level. -/
theorem attemptRule : Obligations.AttemptRule := by
  rintro s slot e K _ _ _ hslot hmic hK rfl rfl rfl
  have hkey : effectiveKey s.frameKeyId e.key = K := by
    rw [hK]
    cases s.frameKeyId <;> rfl
  rw [State.attempt, slotKey_of_entry hslot, patchedAad_eq_map, frameText_eq, frameTag_eq s hmic, hkey]
  refine ⟨fun henc => ?_, fun henc => ?_⟩ <;> rw [henc]
  · rfl
  · exact attemptWith_integrityOnly ..

end Sys2Proof.Machine

/-! PROOFS. The housekeeping command (spec R130). -/

namespace Sys2Proof.Machine

/-- Settles O28: word 0 is NOP's encoding, and NOP is `State.finish` with OK and detail 0 on the state as it is. -/
theorem nopEffect : Obligations.NopEffect := ⟨decodeWord_encodeWord .nop, fun _ => rfl⟩

end Sys2Proof.Machine

/-! PROOFS. Command issue and completion: what a write to CMD does, what the engine's turn makes of a pending word, how
every command ends, and how a run goes on from one step to the next (spec R12, R57, R135 to R145, R157). -/

namespace Sys2Proof.Machine

/-! ### The engine's turn on a pending word (spec R136, R140) -/

theorem engineTurn_command {s : State} {w : Word} {i : Instr} (hpending : s.pending = some w)
    (hdecode : decodeWord w = .ok i) : engineTurn s = exec i s := by
  rw [engineTurn_pending hpending, complete, hdecode]

/-- Settles O4: either way the turn comes, it runs the command its pending word decodes to. -/
theorem stepRunsThePendingCommand : Obligations.StepRunsThePendingCommand := by
  intro s w i hpending hdecode
  refine ⟨fun h => ?_, fun rest h => ?_⟩
  · exact (step_nil h).trans (engineTurn_command hpending hdecode)
  · exact (step_cons h).trans (engineTurn_command (s := { s with agenda := rest }) hpending hdecode)

theorem engineTurn_illegal {s : State} {w : Word} (hpending : s.pending = some w)
    (hillegal : wellFormedWord w = false) : engineTurn s = .next (s.finish .badCmd 0) := by
  obtain ⟨e, hdecode⟩ := (legalWordsAreExactlyTheCommands.1 w).2 hillegal
  rw [engineTurn_pending hpending, complete, hdecode, badCommand]

/-- Settles O5: an illegal word decodes to no command, and BAD_CMD is `State.finish` on the state as it is. -/
theorem illegalWordCompletesWithBadCmd : Obligations.IllegalWordCompletesWithBadCmd := by
  intro s w hpending hillegal
  refine ⟨fun h => ?_, fun rest h => ?_⟩
  · exact (step_nil h).trans (engineTurn_illegal hpending hillegal)
  · exact (step_cons h).trans (engineTurn_illegal (s := { s with agenda := rest }) hpending hillegal)

/-- The engine's turn goes on, and leaves the host's accesses as they stand (spec R143). -/
theorem engineTurn_goes_on (s : State) : ∃ t, engineTurn s = .next t ∧ t.agenda = s.agenda := by
  obtain ⟨-, h⟩ | ⟨w, -, ⟨i, -, h⟩ | h⟩ := engineTurn_cases s
  · exact ⟨s, h, rfl⟩
  · obtain ⟨t, hexec, -, -, hagenda⟩ := exec_completes i s
    exact ⟨t, h.trans hexec, hagenda⟩
  · exact ⟨_, h, rfl⟩

/-- A pending command is completed by the engine's turn, whatever its word (spec R136, R140). -/
theorem engineTurn_completes {s t : State} (hbusy : s.busy = true) (h : engineTurn s = .next t) :
    t.busy = false ∧ t.done = true := by
  obtain ⟨hpending, -⟩ | ⟨w, -, ⟨i, -, hend⟩ | hend⟩ := engineTurn_cases s
  · rw [State.busy, hpending] at hbusy
    cases hbusy
  · obtain ⟨u, hexec, hidle, hdone, -⟩ := exec_completes i s
    cases (hend.trans hexec).symm.trans h
    exact ⟨hidle, hdone⟩
  · cases hend.symm.trans h
    exact ⟨rfl, rfl⟩

/-! ### Writes to CMD (spec R12, R42, R46, R135) -/

theorem storeBytes_cmd (s : State) (v : Word) {ofs n : Nat} (h : ofs + n ≤ 4) : s.storeBytes ofs v n = s := by
  induction n with
  | zero => rfl
  | succ n ih =>
    have hloc : locate (ofs + n) = .reg .cmd (ofs + n) := by
      simpa [Reg.offset] using locate_register .cmd (k := ofs + n) (by omega)
    rw [State.storeBytes, ih (by omega), hloc, State.writeLoc, writeRegByte_readOnly s _ _ rfl (by decide)]

/-- An 8- or 16-bit write to CMD while idle issues nothing; it only notes its alignment (spec R12, R42). -/
theorem hostWrite_cmd_narrow {s : State} {w : Width} {ofs : Nat} (v : Word) (hidle : s.busy = false) (hw : w ≠ .w32)
    (hofs : ofs < 4) : s.hostWrite w ofs v = s.noteAlignment w ofs := by
  by_cases haligned : ofs % w.bytes = 0
  · have hfits : ofs + w.bytes ≤ 4 := aligned_access_fits haligned 1 hofs
    rw [hostWrite_store v hidle (aligned_of_mod_eq haligned) (fun h => hw h.1), storeBytes_cmd s v hfits,
      noteAlignment_of_aligned s haligned]
  · exact hostWrite_misaligned v hidle (not_aligned_of_mod_ne haligned)

/-- A step with such a write next takes it off the agenda and notes its alignment. -/
theorem step_cmd_narrow {s : State} {w : Width} {ofs : Nat} {v : Word} {rest : List HostEvent} (hidle : s.busy = false)
    (hw : w ≠ .w32) (hofs : ofs < 4) (h : s.agenda = .write w ofs v :: rest) :
    step s = .next (State.noteAlignment { s with agenda := rest } w ofs) := by
  have hidle' : State.busy { s with agenda := rest } = false := hidle
  rw [step_write (by omega) h, hostWrite_cmd_narrow v hidle' hw hofs]

/-- A 16-bit access is misaligned at the odd offsets (spec R42). -/
theorem noteAlignment_w16 (s : State) (ofs : Nat) :
    s.noteAlignment .w16 ofs = { s with aerr := s.aerr || ofs % 2 == 1 } := by
  obtain h | h := Nat.mod_two_eq_zero_or_one ofs <;> simp [State.noteAlignment, Width.aligned, Width.bytes, h]

/-- Settles O6: a 32-bit write issues when idle and is discarded when busy; a narrower one only notes its alignment. -/
theorem commandIssue : Obligations.CommandIssue := by
  intro s rest w
  refine ⟨fun hidle h => ?_, fun hbusy h => ?_, fun ofs hofs hidle h => ?_, fun ofs hofs hidle h => ?_⟩
  · have hidle' : State.busy { s with agenda := rest } = false := hidle
    rw [step_write (by decide) h, hostWrite_command w hidle', State.issue]
  · exact (writeWhileBusyIsDiscarded s .w32 0x000 w rest hbusy (by decide) h).1 rfl
  · rw [step_cmd_narrow hidle (by decide) hofs h, noteAlignment_of_aligned _ (Nat.mod_one ofs)]
  · rw [step_cmd_narrow hidle (by decide) hofs h, noteAlignment_w16]

/-! ### How every command ends (spec R137 to R139, R142) -/

/-- The completion `t` of a command from `s` carries a DETAIL its RESULT may have, and FCFULL has not fallen. -/
def EndsLegally (s t : State) : Prop :=
  t.result.detailLegal t.detail = true ∧ (t.fcfull = s.fcfull ∨ t.fcfull = true)

theorem endsLegally_finish {s u : State} {code : ResultCode} {detail : BitVec 4}
    (hdetail : code.detailLegal detail = true) (hfull : u.fcfull = s.fcfull) : EndsLegally s (u.finish code detail) :=
  ⟨hdetail, .inl hfull⟩

/-- remember_success finds the cache full and sets FCFULL, or leaves FCFULL (spec R110, R142). -/
theorem endsLegally_rememberSuccess {s u : State} (src : BitVec 64) (kid : KeyId) (slot : Byte)
    (hfull : u.fcfull = s.fcfull) : EndsLegally s ((u.rememberSuccess src kid slot).finish .ok 0) := by
  refine ⟨rfl, ?_⟩
  obtain ⟨-, h⟩ | ⟨-, -, h⟩ | ⟨-, -, h⟩ := rememberSuccess_cases u src kid slot <;> rw [h]
  · exact .inl hfull
  · exact .inl hfull
  · exact .inr rfl

theorem execNonceBuild_endsLegally {s t : State} (h : execNonceBuild s = .next t) : EndsLegally s t := by
  unfold execNonceBuild at h
  split at h <;> cases h <;> exact endsLegally_finish rfl rfl

theorem execHash_endsLegally {s t : State} (h : execHash s = .next t) : EndsLegally s t := by
  obtain ⟨c, hc, -, hend⟩ | ⟨-, hend⟩ := execHash_cases s <;> cases hend.symm.trans h
  · exact endsLegally_finish (hashChecks_detailLegal s c hc) rfl
  · exact endsLegally_finish rfl rfl

theorem execCcmDec_endsLegally {s t : State} (h : execCcmDec s = .next t) : EndsLegally s t := by
  obtain ⟨c, hc, -, hend⟩ | ⟨-, hend⟩ | ⟨-, m, -, hend⟩ := execCcmDec_cases s <;> cases hend.symm.trans h
  · exact endsLegally_finish (ccmChecks_detailLegal true s c hc) rfl
  · exact endsLegally_finish rfl rfl
  · exact endsLegally_finish rfl rfl

theorem execCcmEnc_endsLegally {s t : State} (h : execCcmEnc s = .next t) : EndsLegally s t := by
  obtain ⟨c, hc, -, hend⟩ | ⟨-, out, -, hend⟩ := execCcmEnc_cases s <;> cases hend.symm.trans h
  · exact endsLegally_finish (ccmChecks_detailLegal false s c hc) rfl
  · exact endsLegally_finish rfl rfl

theorem execKrLoad_endsLegally {s t : State} (h : execKrLoad s = .next t) : EndsLegally s t := by
  unfold execKrLoad at h
  split at h <;> cases h <;> exact endsLegally_finish rfl rfl

theorem execKrRead_endsLegally {s t : State} (h : execKrRead s = .next t) : EndsLegally s t := by
  unfold execKrRead at h
  split at h <;> cases h <;> exact endsLegally_finish rfl rfl

theorem execFcRemember_endsLegally {s t : State} (h : execFcRemember s = .next t) : EndsLegally s t := by
  obtain ⟨-, hend⟩ | ⟨-, -, hend⟩ | ⟨-, -, hend⟩ := execFcRemember_cases s <;> cases hend.symm.trans h
  · exact endsLegally_finish rfl rfl
  · exact endsLegally_finish rfl rfl
  · exact endsLegally_rememberSuccess _ _ _ rfl

theorem frameNoSource_endsLegally (s : State) : EndsLegally s s.frameNoSource := by
  unfold State.frameNoSource
  split <;> exact endsLegally_finish rfl rfl

theorem frameExhausted_endsLegally (s : State) (tried : Nat) : EndsLegally s (s.frameExhausted tried) := by
  unfold State.frameExhausted
  split <;> exact endsLegally_finish rfl rfl

theorem decryptFrame_endsLegally (s : State) : EndsLegally s s.decryptFrame := by
  obtain ⟨c, hc, -, h⟩ | ⟨-, ⟨-, h⟩ | ⟨-, -, h⟩ | ⟨-, -, before, c, after, out, -, -, -, h⟩ | ⟨-, -, -, h⟩⟩ :=
    decryptFrame_cases s <;> rw [h]
  · exact endsLegally_finish (frameChecks_detailLegal s c hc) rfl
  · exact endsLegally_finish rfl rfl
  · exact frameNoSource_endsLegally s
  · exact endsLegally_rememberSuccess _ _ _ rfl
  · exact frameExhausted_endsLegally s _

theorem exec_endsLegally {i : Instr} {s t : State} (h : exec i s = .next t) : EndsLegally s t := by
  cases i with
  | nop | ecbEnc | derive | krClear =>
    cases h
    exact endsLegally_finish rfl rfl
  | nonceBuild => exact execNonceBuild_endsLegally h
  | hash => exact execHash_endsLegally h
  | ccmDec => exact execCcmDec_endsLegally h
  | ccmEnc => exact execCcmEnc_endsLegally h
  | krLoad => exact execKrLoad_endsLegally h
  | krRead => exact execKrRead_endsLegally h
  | fcRemember => exact execFcRemember_endsLegally h
  | decryptFrame =>
    cases h
    exact decryptFrame_endsLegally { s with resultInfo := ResultInfo.zero }

/-- No command writes WERR, AERR or CONFIG, and only two may write FCFULL (spec R142). -/
theorem commandWrites_flags {s u : State} {i : Instr} (h : CommandWrites s u i) :
    u.werr = s.werr ∧ u.aerr = s.aerr ∧ u.config = s.config
      ∧ (u.fcfull = s.fcfull ∨ i = .fcRemember ∨ i = .decryptFrame) := by
  cases i
  case nop | krClear => cases h; simp
  case ecbEnc | nonceBuild | hash | derive => obtain ⟨_, rfl⟩ := h; simp
  case ccmDec | ccmEnc => obtain ⟨_, _, rfl⟩ := h; simp
  case krLoad | fcRemember => obtain ⟨_, _, -, rfl⟩ := h; simp
  case krRead => obtain ⟨_, _, _, _, rfl⟩ := h; simp
  case decryptFrame => obtain ⟨_, _, _, _, _, -, rfl⟩ := h; simp

/-- Settles O7: the command completes within what it may write, and legally. -/
theorem everyCommandEndsInACompletion : Obligations.EveryCommandEndsInACompletion := by
  intro i s
  obtain ⟨u, code, detail, hwrites, hexec⟩ := exec_writes i s
  obtain ⟨hwerr, haerr, hconfig, hwriter⟩ := commandWrites_flags hwrites
  obtain ⟨hdetail, hfull⟩ := exec_endsLegally hexec
  refine ⟨_, hexec, rfl, rfl, hdetail, hwerr, haerr, hconfig, ?_⟩
  obtain hkept | hwriter := hwriter
  · exact .inl hkept
  · exact hfull.imp_right (⟨·, hwriter⟩)

/-! ### DONE over a step (spec R144, R145) -/

/-- A byte written by the host never sets DONE: STATUS only clears it (spec R13). -/
theorem done_of_writeLoc_done {s : State} {l : Loc} {b : Byte} (h : (s.writeLoc l b).done = true) : s.done = true := by
  cases l with
  | reg r k =>
    obtain ⟨-, hw⟩ | ⟨-, hw⟩ := writeRegByte_cases s r k b <;> rw [State.writeLoc, hw] at h
    · rw [clearStatus_done, Bool.and_eq_true] at h
      exact h.1
    · cases r <;> exact h
  | array a i => cases a <;> exact h
  | dbuf _ | obuf _ | reserved => exact h

theorem done_of_storeBytes_done {s : State} {ofs : Nat} {v : Word} {n : Nat} (h : (s.storeBytes ofs v n).done = true) :
    s.done = true := by
  induction n with
  | zero => exact h
  | succ n ih => exact ih (done_of_writeLoc_done h)

/-- Settles O10, by the move the step makes: only the two completions set DONE, and both find a command pending. -/
theorem doneRisesOnlyByCompletion : Obligations.DoneRisesOnlyByCompletion := by
  intro s t hstep hdone
  obtain ⟨u, rfl, hmove⟩ := step_cases hstep
  obtain ⟨rfl, -⟩ | ⟨w, i, hpending, -, hexec⟩ | ⟨hbusy, rfl⟩ | ⟨w, ofs, rfl⟩ | rfl | ⟨w, ofs, -, rfl⟩
    | ⟨w, ofs, -, rfl⟩ | ⟨w, -, rfl⟩ | ⟨w, ofs, v, -, rfl⟩ := hmove
  · exact .inl hdone
  · obtain ⟨u, hu, hidle, -, -⟩ := exec_completes i { s with agenda := s.agenda.tail }
    cases hu.symm.trans hexec
    exact .inr ⟨Option.isSome_of_eq_some hpending, hidle⟩
  · exact .inr ⟨hbusy, rfl⟩
  · exact .inl hdone
  · cases hdone
  · exact .inl hdone
  · exact .inl hdone
  · cases hdone
  · exact .inl (done_of_storeBytes_done (s := { s with agenda := s.agenda.tail }) hdone)

/-! ### Runs inside the window (spec R136, R143, R157) -/

theorem hostWrite_keeps_agenda (s : State) (w : Width) (ofs : Nat) (v : Word) :
    (s.hostWrite w ofs v).agenda = s.agenda := by
  obtain ⟨-, h⟩ | ⟨-, h⟩ | ⟨-, h⟩ | ⟨-, h⟩ := hostWrite_cases s w ofs v <;> simp [h]

/-- An item inside the window is performed, and the items after it stand (spec R143). -/
theorem perform_goes_on {e : HostEvent} (s : State) (h : e.inWindow = true) :
    ∃ t, perform e s = .next t ∧ t.agenda = s.agenda := by
  cases e with
  | read w ofs => exact ⟨_, perform_read (of_decide_eq_true h), rfl⟩
  | write w ofs v => exact ⟨_, perform_write (of_decide_eq_true h), hostWrite_keeps_agenda s w ofs v⟩
  | reset => exact ⟨_, perform_reset s, rfl⟩
  | engine => exact engineTurn_goes_on s

/-- Inside the window a step goes on and uses up the agenda's first item. -/
theorem step_goes_on {s : State} (h : s.agendaInWindow) : ∃ t, step s = .next t ∧ t.agenda = s.agenda.tail := by
  cases ha : s.agenda with
  | nil =>
    obtain ⟨t, hturn, hagenda⟩ := engineTurn_goes_on s
    exact ⟨t, (step_nil ha).trans hturn, hagenda.trans ha⟩
  | cons e rest =>
    obtain ⟨t, hperform, hagenda⟩ := perform_goes_on { s with agenda := rest } (h e (by simp [ha]))
    exact ⟨t, (step_cons ha).trans hperform, hagenda⟩

theorem agendaInWindow_of_tail {s t : State} (h : s.agendaInWindow) (ht : t.agenda = s.agenda.tail) :
    t.agendaInWindow := fun e he => h e (List.mem_of_mem_tail (ht ▸ he))

/-- Settles O23: the step goes on, and what is left of the agenda was on it before. -/
theorem stepAlwaysGoesOnInsideTheWindow : Obligations.StepAlwaysGoesOnInsideTheWindow := by
  intro s h
  obtain ⟨t, hstep, hagenda⟩ := step_goes_on h
  exact ⟨t, hstep, agendaInWindow_of_tail h hagenda⟩

/-- While a command is pending an item other than the reset leaves it so, or completes it (spec R46, R136). -/
theorem perform_busy {e : HostEvent} {s t : State} (hbusy : s.busy = true) (he : e ≠ .reset)
    (h : perform e s = .next t) : t.busy = true ∨ (t.busy = false ∧ t.done = true) := by
  cases e with
  | read w ofs =>
    cases inWindow_next h
    exact .inl hbusy
  | write w ofs v =>
    cases inWindow_next h
    rw [hostWrite_busy w ofs v hbusy]
    exact .inl hbusy
  | reset => exact absurd rfl he
  | engine => exact .inr (engineTurn_completes hbusy h)

/-- Settles O8, by induction on the agenda: each item completes the command or leaves a shorter agenda, and at the
end of it the engine has its turn. -/
theorem pendingCommandCompletesInBoundedSteps : Obligations.PendingCommandCompletesInBoundedSteps := by
  intro s hbusy hreset hwindow
  generalize ha : s.agenda = agenda at hreset
  induction agenda generalizing s with
  | nil =>
    obtain ⟨t, hstep, -⟩ := step_goes_on hwindow
    exact ⟨1, t, Nat.le_refl 1, run_succ_of_step hstep 0, engineTurn_completes hbusy ((step_nil ha).symm.trans hstep)⟩
  | cons e rest ih =>
    obtain ⟨t, hstep, hagenda⟩ := step_goes_on hwindow
    have hrest : t.agenda = rest := by rw [hagenda, ha, List.tail_cons]
    obtain ⟨he, hreset⟩ := List.forall_mem_cons.mp hreset
    obtain hstill | hcompleted :=
      perform_busy (s := { s with agenda := rest }) hbusy he ((step_cons ha).symm.trans hstep)
    · obtain ⟨k, u, hk, hrun, hend⟩ := ih t hstill (agendaInWindow_of_tail hwindow hagenda) hrest hreset
      exact ⟨k + 1, u, Nat.succ_le_succ hk, (run_succ_of_step hstep k).trans hrun, hend⟩
    · exact ⟨1, t, Nat.le_add_left 1 _, run_succ_of_step hstep 0, hcompleted⟩

end Sys2Proof.Machine

/-! PROOFS. The reset input: every register, array and table at its reset value, the buffers unwritten, and the invariant
met (spec R40, R153 to R155). -/

namespace Sys2Proof.Machine

/-- The core at its reset values, whatever stands in the model's own fields (spec R154; log 1, 7, 8). -/
def State.atReset (epoch : Nat) (agenda : List HostEvent) (readData : Word) : State :=
  { State.reset with epoch := epoch, agenda := agenda, readData := readData }

theorem assertReset_eq_atReset (s : State) : s.assertReset = .atReset (s.epoch + 1) s.agenda s.readData := rfl

theorem reset_eq_atReset : State.reset = .atReset 0 [] 0 := rfl

section

variable (epoch : Nat) (agenda : List HostEvent) (readData : Word)

/-- No register shows the model's own fields. -/
theorem regWord_atReset (r : Reg) : (State.atReset epoch agenda readData).regWord r = State.reset.regWord r := by
  cases r <;> rfl

theorem arrayBytes_atReset (a : ArrayReg) :
    (State.atReset epoch agenda readData).arrayBytes a = List.replicate a.size 0 := by
  cases a <;> rfl

/-- An unwritten DBUF byte is the draw of its reset (spec R40; log 3). -/
theorem dbufByte_atReset (o : Nat) : (State.atReset epoch agenda readData).dbufByte o = Config.dbufDraw epoch o := rfl

/-- An unwritten OBUF byte is the draw of its reset (spec R40; log 3). -/
theorem obufByte_atReset (o : Nat) : (State.atReset epoch agenda readData).obufByte o = Config.obufDraw epoch o := rfl

end

/-- Settles O20: the reset input and State.reset both leave the core at its reset values. -/
theorem resetValues : Obligations.ResetValues := by
  intro s rest h
  refine ⟨State.assertReset { s with agenda := rest }, (step_cons h).trans (perform_reset _), rfl, rfl, fun u hu => ?_⟩
  obtain ⟨epoch, agenda, readData, rfl⟩ : ∃ epoch agenda readData, u = .atReset epoch agenda readData := by
    obtain rfl | rfl := hu
    · exact ⟨_, _, _, assertReset_eq_atReset _⟩
    · exact ⟨_, _, _, reset_eq_atReset⟩
  refine ⟨rfl, fun r => ?_, fun a b hb => ?_, rfl, rfl,
    fun o => ⟨dbufByte_atReset epoch agenda readData o, obufByte_atReset epoch agenda readData o⟩⟩
  · rw [regWord_atReset]
    cases r with
    | status | config | hdrFlags | krArg | resultInfo | rdMeta => decide
    | _ => rfl
  · rw [arrayBytes_atReset] at hb
    exact List.eq_of_mem_replicate hb

/-- Settles O21: the invariant does not read the reset number, in which State.reset differs from the reset input's state. -/
theorem invariantHoldsAtReset : Obligations.InvariantHoldsAtReset := { State.Inv.assertReset State.reset with }

end Sys2Proof.Machine

/-! PROOFS. The number of AES calls of each command (spec R102, R164). -/

namespace Sys2Proof.Machine

open Sys2Proof.Spec

/-! ### Hash and derivation (spec R84, R86) -/

theorem hashCalls_eq (x : Bytes) : hashCalls x = (x.length + 3 + 15) / 16 := by
  rw [hashCalls, blocks16_length, mmoPad_length, Nat.mul_div_cancel_left _ (by decide), ceil16]

/-- The inner hash takes the key's block and the selector, the outer the key's block and a digest. -/
theorem deriveCalls_eq (k : Block) (sel : Byte) : deriveCalls k sel = 5 := by
  simp only [deriveCalls, hashCalls_eq, List.length_append, Vector.length_toList, List.length_singleton]

/-! ### CCM* (spec R102) -/

/-- The blocks absorbed by the CBC-MAC: each part of the authentication input is padded by itself (spec R95). -/
theorem authInput_blocks (a m : Bytes) : (blocks16 (authInput a m)).length =
    (if 0 < a.length then (a.length + 2 + 15) / 16 else 0) + (m.length + 15) / 16 := by
  rw [blocks16_length, authInput, List.length_append, pad16_length, apply_ite List.length, pad16_length,
    List.length_append, be_length, ceil16, ceil16, List.length_nil]
  split <;> omega

theorem ccmCalls_eq (a m : Bytes) (M : Nat) : ccmCalls a m M = ccmCallFormula a.length m.length M := by
  rw [ccmCalls, ccmCallFormula, cbcMacCalls, authInput_blocks, ceil16]
  split <;> omega

/-! ### Ending at a check: a command's result is a check's code exactly when one of its checks fails (spec R141) -/

theorem firstFailure_isSome_of_mem {cs : List Check} {c : Check} (hc : c ∈ cs) (hf : c.fails = true) :
    (firstFailure cs).isSome = true := List.find?_isSome.mpr ⟨c, hc, hf⟩

theorem firstFailure_isSome_of_pass {cs : List Check} (h : ∀ c ∈ cs, c.fails = false) :
    (firstFailure cs).isSome = false := by
  rw [← Bool.not_eq_true, firstFailure, List.find?_isSome]
  rintro ⟨c, hc, hf⟩
  rw [h c hc] at hf
  cases hf

theorem hashChecks_code (s : State) : ∀ c ∈ hashChecks s, c.code.isCheck = true := by
  simp [hashChecks, ResultCode.isCheck]

theorem execHash_isCheck {s t : State} (h : execHash s = .next t) :
    (firstFailure (hashChecks s)).isSome = t.result.isCheck := by
  obtain ⟨c, hc, hf, hend⟩ | ⟨hpass, hend⟩ := execHash_cases s <;> cases hend.symm.trans h
  · exact (firstFailure_isSome_of_mem hc hf).trans (hashChecks_code s c hc).symm
  · exact firstFailure_isSome_of_pass hpass

theorem execCcmDec_isCheck {s t : State} (h : execCcmDec s = .next t) :
    (firstFailure (ccmChecks true s)).isSome = t.result.isCheck := by
  obtain ⟨c, hc, hf, hend⟩ | ⟨hpass, hend⟩ | ⟨hpass, m, -, hend⟩ := execCcmDec_cases s <;> cases hend.symm.trans h
  · exact (firstFailure_isSome_of_mem hc hf).trans (ccmChecks_code true s c hc).symm
  · exact firstFailure_isSome_of_pass hpass
  · exact firstFailure_isSome_of_pass hpass

theorem execCcmEnc_isCheck {s t : State} (h : execCcmEnc s = .next t) :
    (firstFailure (ccmChecks false s)).isSome = t.result.isCheck := by
  obtain ⟨c, hc, hf, hend⟩ | ⟨hpass, out, -, hend⟩ := execCcmEnc_cases s <;> cases hend.symm.trans h
  · exact (firstFailure_isSome_of_mem hc hf).trans (ccmChecks_code false s c hc).symm
  · exact firstFailure_isSome_of_pass hpass

theorem frameNoSource_isCheck (s : State) : s.frameNoSource.result.isCheck = false := by
  unfold State.frameNoSource
  split <;> rfl

theorem frameExhausted_isCheck (s : State) (tried : Nat) : (s.frameExhausted tried).result.isCheck = false := by
  unfold State.frameExhausted
  split <;> rfl

theorem decryptFrame_isCheck (s : State) :
    (firstFailure (frameChecks s)).isSome = s.decryptFrame.result.isCheck := by
  obtain ⟨c, hc, hf, hend⟩ | ⟨hpass, hend⟩ := decryptFrame_cases s
  · rw [hend, firstFailure_isSome_of_mem hc hf]
    exact (frameChecks_code s c hc).symm
  · rw [firstFailure_isSome_of_pass hpass]
    obtain ⟨-, hend⟩ | ⟨-, -, hend⟩ | ⟨-, -, before, c, after, out, -, -, -, hend⟩ | ⟨-, -, -, hend⟩ := hend <;>
      rw [hend]
    · rfl
    · exact (frameNoSource_isCheck s).symm
    · rfl
    · exact (frameExhausted_isCheck s _).symm

theorem execDecryptFrame_isCheck {s t : State} (h : execDecryptFrame s = .next t) :
    (firstFailure (frameChecks s)).isSome = t.result.isCheck := by
  cases h
  rw [← decryptFrame_isCheck]
  rfl

/-- A command that ends at a check makes no AES call. -/
theorem aesCalls_of_isCheck {i : Instr} {s t : State}
    (hi : i = .hash ∨ i = .ccmDec ∨ i = .ccmEnc ∨ i = .decryptFrame) (h : exec i s = .next t)
    (hcode : t.result.isCheck = true) : aesCalls i s = 0 := by
  obtain rfl | rfl | rfl | rfl := hi
  · exact if_pos ((execHash_isCheck h).trans hcode)
  · exact if_pos ((execCcmDec_isCheck h).trans hcode)
  · exact if_pos ((execCcmEnc_isCheck h).trans hcode)
  · rw [aesCalls, State.frameCalls, (execDecryptFrame_isCheck h).trans hcode]
    rfl

/-! ### Past the checks -/

theorem aesCalls_hash {s : State} (hlen : 8 * s.hashLen.toNat ≤ 0xFFFF)
    (hend : s.hashOfs.toNat + s.hashLen.toNat ≤ Config.dbufSize) :
    aesCalls .hash s = (s.hashLen.toNat + 3 + 15) / 16 := by
  have hpass : firstFailure (hashChecks s) = none := by
    rw [firstFailure_hashChecks, if_neg (Nat.not_lt.mpr hlen), if_neg (Nat.not_lt.mpr hend)]
  rw [aesCalls, hpass, hashCalls_eq, dbufRead_length]
  rfl

theorem aesCalls_ccmDec {s t : State} (h : exec .ccmDec s = .next t) (hcode : t.result.isCheck = false) :
    aesCalls .ccmDec s = ccmCallFormula s.aadLen.toNat (s.payloadLen.toNat - s.micLen.toNat) s.micLen.toNat := by
  rw [aesCalls, (execCcmDec_isCheck h).trans hcode, ccmCalls_eq, ccmCiphertext_eq, aad_length, dbufRead_length]
  rfl

theorem aesCalls_ccmEnc {s t : State} (h : exec .ccmEnc s = .next t) (hcode : t.result.isCheck = false) :
    aesCalls .ccmEnc s = ccmCallFormula s.aadLen.toNat s.payloadLen.toNat s.micLen.toNat := by
  rw [aesCalls, (execCcmEnc_isCheck h).trans hcode, ccmCalls_eq, aad_length, payload_length]
  rfl

/-! ### DECRYPT_FRAME (spec R123, R124) -/

/-- AES calls of an attempt: those of the derivation the key id asks for, and those of the tag check (spec R122, R123). -/
def State.callsPerAttempt (s : State) : Nat :=
  (if s.frameKeyId = .transport ∨ s.frameKeyId = .load then 5 else 0)
    + if s.level.encrypts then
        ccmCallFormula s.aadLen.toNat (s.payloadLen.toNat - s.level.micLen) s.level.micLen
      else ccmCallFormula (s.aadLen.toNat + (s.payloadLen.toNat - s.level.micLen)) 0 s.level.micLen

/-- Every attempt on the frame makes the same number of calls, whatever its key. -/
theorem attemptCalls_eq {s : State} (h : s.level.micLen ≤ s.payloadLen.toNat) (slot : Nat) :
    s.attemptCalls slot = s.callsPerAttempt := by
  unfold State.attemptCalls State.callsPerAttempt
  simp only [ccmCalls_eq, deriveCalls_eq, List.length_append, List.length_nil, patchedAad_length, frameText_length,
    frameTag_length s h, State.frameTextLen]
  cases s.frameKeyId <;> rfl

/-- A trial tries no more candidates than there are (spec R124). -/
theorem tryFrame_tried_le (s : State) : s.tryFrame.tried ≤ (s.candidatesFor s.src s.frameKeyId).length := by
  obtain ⟨before, c, after, out, hcands, -, -, htrial⟩ | ⟨-, htrial⟩ :=
    tryCandidates_cases s.attempt 0 (s.candidatesFor s.src s.frameKeyId) <;> rw [State.tryFrame, htrial, Trial.tried]
  · rw [hcands, List.length_append, List.length_cons]
    omega
  · rw [Nat.zero_add]

/-- The calls of one attempt for each candidate tried. -/
theorem aesCalls_decryptFrame {s : State} (hpass : frameChecksPass s) (hlevel : s.level ≠ .none)
    (hsrc : s.hdrFlags.srcValid = true) : aesCalls .decryptFrame s = s.tryFrame.tried * s.callsPerAttempt := by
  have htrial : ¬ ((firstFailure (frameChecks s)).isSome || s.level == .none || !s.hdrFlags.srcValid) = true := by
    simp [firstFailure_of_frameChecksPass hpass, hlevel, hsrc]
  obtain ⟨hmic, -⟩ := hpass
  have hcalls : s.attemptCalls = fun _ => s.callsPerAttempt := funext (attemptCalls_eq hmic)
  rw [aesCalls, State.frameCalls, if_neg htrial, hcalls, List.map_const', List.sum_replicate, smul_eq_mul,
    List.length_take_of_le (tryFrame_tried_le s)]

/-- Settles O60: a failing check costs nothing, and past the checks the lengths alone decide. -/
theorem aesCallCounts : Obligations.AesCallCounts := by
  intro s
  refine ⟨?_, rfl, deriveCalls_eq s.key, aesCalls_hash, ?_, ?_, ?_, aesCalls_decryptFrame⟩
  · rintro i (rfl | rfl | rfl | rfl | rfl | rfl) <;> rfl
  · rintro ⟨t, h, hcode | hcode⟩ <;> exact aesCalls_ccmDec h (by rw [hcode]; rfl)
  · rintro ⟨t, h, hcode⟩
    exact aesCalls_ccmEnc h (by rw [hcode]; rfl)
  · rintro i hi ⟨t, h, hcode | hcode | hcode⟩ <;> exact aesCalls_of_isCheck hi h (by rw [hcode]; rfl)

end Sys2Proof.Machine

/-! PROOFS. The draws of the reset go unseen by a command whose inputs are written: another reset number goes past it
(spec R40, R160). -/

namespace Sys2Proof.Machine

/-- The reset number replaced, and with it every draw (spec R40; log 8). -/
def State.withEpoch (epoch : Nat) (s : State) : State := { s with epoch := epoch }

theorem sparesFrameResults_withEpoch (epoch : Nat) : SparesFrameResults (State.withEpoch epoch) :=
  ⟨fun _ _ _ => rfl, fun _ _ => rfl, fun _ => rfl, fun _ _ => rfl, fun _ _ => rfl, fun _ => rfl, fun _ => rfl⟩

section

variable {s : State} {epoch : Nat}

/-! ### Written bytes and the keys of valid slots -/

/-- A written byte is no draw. -/
theorem dbufByte_withEpoch {ofs : Nat} (h : (Memory.read s.dbuf ofs).isSome = true) :
    (s.withEpoch epoch).dbufByte ofs = s.dbufByte ofs := by
  obtain ⟨b, hb⟩ := Option.isSome_iff_exists.mp h
  have hread : Memory.read (s.withEpoch epoch).dbuf ofs = some b := hb
  rw [State.dbufByte, State.dbufByte, hb, hread]
  rfl

theorem dbufRead_withEpoch {ofs n : Nat} (h : s.written ofs n) :
    (s.withEpoch epoch).dbufRead ofs n = s.dbufRead ofs n :=
  List.map_congr_left fun i hi => dbufByte_withEpoch (h i (List.mem_range.mp hi))

/-- A valid slot's key is no draw (spec R32). -/
theorem slotKey_withEpoch {slot : Nat} (h : slot < s.ring.length) :
    (s.withEpoch epoch).slotKey slot = s.slotKey slot := by
  have he : s.ring[slot]? = some s.ring[slot] := List.getElem?_eq_getElem h
  rw [slotKey_of_entry he, slotKey_of_entry (s := s.withEpoch epoch) he]

/-! ### The frame in DBUF and the trial of its candidates (spec R117, R121 to R124) -/

theorem aad_withEpoch (h : s.inputWritten .decryptFrame) : (s.withEpoch epoch).aad = s.aad :=
  dbufRead_withEpoch fun i hi => h i (Nat.lt_add_right _ hi)

theorem payload_withEpoch (h : s.inputWritten .decryptFrame) : (s.withEpoch epoch).payload = s.payload :=
  dbufRead_withEpoch fun i hi => by
    rw [Nat.add_assoc]
    exact h _ (Nat.add_lt_add_left hi _)

theorem frameText_withEpoch (h : s.inputWritten .decryptFrame) : (s.withEpoch epoch).frameText = s.frameText :=
  congrArg (List.take s.frameTextLen) (payload_withEpoch h)

theorem frameTag_withEpoch (h : s.inputWritten .decryptFrame) : (s.withEpoch epoch).frameTag = s.frameTag :=
  congrArg (List.drop s.frameTextLen) (payload_withEpoch h)

theorem patchedAad_withEpoch (h : s.inputWritten .decryptFrame) : (s.withEpoch epoch).patchedAad = s.patchedAad :=
  congrArg (List.set · s.ctrlOfs.toNat s.effCtrl) (aad_withEpoch h)

theorem attempt_withEpoch (h : s.inputWritten .decryptFrame) {slot : Nat} (hslot : slot < s.ring.length) :
    (s.withEpoch epoch).attempt slot = s.attempt slot := by
  rw [State.attempt, State.attempt, slotKey_withEpoch hslot, patchedAad_withEpoch h, frameText_withEpoch h,
    frameTag_withEpoch h]
  rfl

/-- Two trials whose attempts on the candidates agree end alike (spec R124). -/
theorem tryCandidates_congr {f g : Nat → Option Bytes} {cs : List Candidate} (h : ∀ c ∈ cs, f c.slot = g c.slot)
    (n : Nat) : tryCandidates f n cs = tryCandidates g n cs := by
  induction cs generalizing n with
  | nil => rfl
  | cons c rest ih =>
    obtain ⟨hc, hrest⟩ := List.forall_mem_cons.mp h
    rw [tryCandidates, tryCandidates, hc, ih hrest]

/-- Every candidate names a valid slot, so the trial ends alike (spec R115). -/
theorem tryFrame_withEpoch (hcache : ∀ e ∈ s.cache, e.slot.toNat < s.ring.length)
    (h : s.inputWritten .decryptFrame) : (s.withEpoch epoch).tryFrame = s.tryFrame :=
  tryCandidates_congr (fun _ hc => attempt_withEpoch h (candidatesFor_slot_lt hcache hc)) 0

/-! ### The commands -/

theorem execNonceBuild_withEpoch :
    execNonceBuild (s.withEpoch epoch) = mapNext (State.withEpoch epoch) (execNonceBuild s) := by
  rw [execNonceBuild, execNonceBuild, apply_ite (mapNext _)]
  rfl

theorem execHash_withEpoch (h : s.inputWritten .hash) :
    execHash (s.withEpoch epoch) = mapNext (State.withEpoch epoch) (execHash s) := by
  have hinput : (s.withEpoch epoch).dbufRead (s.withEpoch epoch).hashOfs.toNat (s.withEpoch epoch).hashLen.toNat
      = s.dbufRead s.hashOfs.toNat s.hashLen.toNat := dbufRead_withEpoch h
  have hchecks : hashChecks (s.withEpoch epoch) = hashChecks s := rfl
  rw [execHash, execHash, hchecks, hinput]
  cases firstFailure (hashChecks s) <;> rfl

/-- The completion behind the checks of a command changes its reset number with the state (spec R141). -/
theorem afterChecks_withEpoch (checks : List Check) (t : State) :
    (s.withEpoch epoch).afterChecks checks (t.withEpoch epoch) = (s.afterChecks checks t).withEpoch epoch := by
  unfold State.afterChecks
  cases firstFailure checks <;> rfl

theorem execCcmDec_withEpoch (h : s.inputWritten .ccmDec) :
    execCcmDec (s.withEpoch epoch) = mapNext (State.withEpoch epoch) (execCcmDec s) := by
  have hend (out : Option Bytes) : (s.withEpoch epoch).ccmDecrypted out = (s.ccmDecrypted out).withEpoch epoch := by
    cases out <;> rfl
  rw [execCcmDec_eq_afterChecks, execCcmDec_eq_afterChecks, hend, afterChecks_withEpoch, aad_withEpoch h,
    payload_withEpoch h]
  rfl

theorem execCcmEnc_withEpoch (h : s.inputWritten .ccmEnc) :
    execCcmEnc (s.withEpoch epoch) = mapNext (State.withEpoch epoch) (execCcmEnc s) := by
  have hf := sparesFrameResults_withEpoch epoch
  rw [execCcmEnc_eq_afterChecks, execCcmEnc_eq_afterChecks, ← hf.deliver, ← hf.finish, afterChecks_withEpoch,
    aad_withEpoch h, payload_withEpoch h]
  rfl

theorem execKrLoad_withEpoch :
    execKrLoad (s.withEpoch epoch) = mapNext (State.withEpoch epoch) (execKrLoad s) := by
  rw [execKrLoad, execKrLoad, apply_ite (mapNext _)]
  rfl

theorem execKrRead_withEpoch :
    execKrRead (s.withEpoch epoch) = mapNext (State.withEpoch epoch) (execKrRead s) := by
  have hslot : (s.withEpoch epoch).ring[(s.withEpoch epoch).krArg.slot.toNat]? = s.ring[s.krArg.slot.toNat]? := rfl
  rw [execKrRead, execKrRead, hslot]
  cases s.ring[s.krArg.slot.toNat]? <;> rfl

theorem execFcRemember_withEpoch :
    execFcRemember (s.withEpoch epoch) = mapNext (State.withEpoch epoch) (execFcRemember s) := by
  have hf := sparesFrameResults_withEpoch epoch
  have hchecks : fcChecks (s.withEpoch epoch) = fcChecks s := rfl
  rw [execFcRemember, execFcRemember, hchecks]
  cases firstFailure (fcChecks s) with
  | some c => rfl
  | none =>
    dsimp only [mapNext]
    rw [hf.finish, hf.rememberSuccess]
    rfl

theorem frameDecrypted_withEpoch (c : Candidate) (tried : Nat) (out : Bytes) :
    (s.withEpoch epoch).frameDecrypted c tried out = (s.frameDecrypted c tried out).withEpoch epoch := by
  have hf := sparesFrameResults_withEpoch epoch
  rw [frameDecrypted_eq, frameDecrypted_eq, hf.finish, hf.rememberSuccess, hf.withInfo, hf.deliver]
  rfl

theorem frameExhausted_withEpoch (h : s.inputWritten .decryptFrame) (tried : Nat) :
    (s.withEpoch epoch).frameExhausted tried = (s.frameExhausted tried).withEpoch epoch := by
  rw [frameExhausted_eq, frameExhausted_eq, frameText_withEpoch h, apply_ite (State.withEpoch epoch)]
  rfl

theorem frameNoSource_withEpoch (h : s.inputWritten .decryptFrame) :
    (s.withEpoch epoch).frameNoSource = s.frameNoSource.withEpoch epoch := by
  rw [State.frameNoSource, State.frameNoSource, frameText_withEpoch h, apply_ite (State.withEpoch epoch)]
  rfl

theorem decryptFrame_withEpoch (hcache : ∀ e ∈ s.cache, e.slot.toNat < s.ring.length)
    (h : s.inputWritten .decryptFrame) : (s.withEpoch epoch).decryptFrame = s.decryptFrame.withEpoch epoch := by
  have hchecks : frameChecks (s.withEpoch epoch) = frameChecks s := rfl
  have hlevel : (s.withEpoch epoch).level = s.level := rfl
  have hsrc : (s.withEpoch epoch).hdrFlags.srcValid = s.hdrFlags.srcValid := rfl
  rw [State.decryptFrame, State.decryptFrame, hchecks, hlevel, hsrc, tryFrame_withEpoch hcache h, frameText_withEpoch h]
  cases firstFailure (frameChecks s) with
  | some c => rfl
  | none =>
    dsimp only
    split_ifs
    · rfl
    · cases s.tryFrame with
      | decrypted c tried out => exact frameDecrypted_withEpoch c tried out
      | exhausted tried => exact frameExhausted_withEpoch h tried
    · exact frameNoSource_withEpoch h

/-- No command whose inputs are written sees a draw. -/
theorem exec_withEpoch (i : Instr) (hcache : ∀ e ∈ s.cache, e.slot.toNat < s.ring.length) (h : s.inputWritten i) :
    exec i (s.withEpoch epoch) = mapNext (State.withEpoch epoch) (exec i s) := by
  cases i with
  | nop | ecbEnc | derive _ | krClear => rfl
  | nonceBuild => exact execNonceBuild_withEpoch
  | hash => exact execHash_withEpoch h
  | ccmDec => exact execCcmDec_withEpoch h
  | ccmEnc => exact execCcmEnc_withEpoch h
  | krLoad => exact execKrLoad_withEpoch
  | krRead => exact execKrRead_withEpoch
  | fcRemember => exact execFcRemember_withEpoch
  | decryptFrame =>
    exact congrArg Host.Outcome.next (decryptFrame_withEpoch (s := s.withInfo ResultInfo.zero) hcache h)

end

/-- Settles O59: written bytes and the keys of valid slots are no draws, and no other draw is read. -/
theorem writtenInputsHideTheDraws : Obligations.WrittenInputsHideTheDraws := by
  intro i s t epoch hcache hinput h
  calc exec i (s.withEpoch epoch)
      = mapNext (State.withEpoch epoch) (exec i s) := exec_withEpoch i hcache hinput
    _ = .next (t.withEpoch epoch) := by rw [h, mapNext]

end Sys2Proof.Machine
